-- ==== Sys2Proof/Word.lean ====
section
/-! DEFINITION. The two word widths of the CORE (00_scope.md R10): 8-bit bytes and registers, 16-bit
addresses. Arithmetic on both wraps (00_scope.md R13), which is `BitVec` arithmetic. -/

namespace Sys2Proof

/-- `Word8` of 00_scope.md R13: a register, a flag byte or a byte of memory. -/
abbrev Byte := BitVec 8

/-- `Word16` of 00_scope.md R13: an address or the program counter. -/
abbrev Addr := BitVec 16

end Sys2Proof
end

