-- ==== Sys2Proof/Syntax.lean ====
section
/-! DEFINITION. The instructions: one constructor of `Instr` per row of spec/opcode_table.json, carrying
its decoded operand (30_encoding.md R302). `Op`, `Mode` and `Descriptor` are the spec's instruction
descriptor (40_sequencer.md R403). -/

namespace Sys2Proof

/-- The thirteen addressing modes (41_addressing.md R450 to R463). -/
inductive Mode where
  | implied | accumulator | immediate | zeroPage | zeroPageX | zeroPageY | absolute
  | absoluteX | absoluteY | indirect | indexedIndirectX | indirectIndexedY | relative
  deriving DecidableEq, Repr

/-- The 56 documented operations (00_scope.md R2), by family. -/
inductive Op where
  -- Loads, stores and transfers (42_load_store_transfer.md)
  | lda | ldx | ldy | sta | stx | sty | tax | tay | txa | tya
  -- Arithmetic (43_arithmetic.md)
  | adc | sbc
  -- Logical operations (44_logical.md)
  | and | ora | eor | bit
  -- Shifts and rotates (45_shift_rotate.md)
  | asl | lsr | rol | ror
  -- Compare, increment and decrement (46_compare_incdec.md)
  | cmp | cpx | cpy | inc | dec | inx | dex | iny | dey
  -- Branches, jumps, calls and returns (47_branch_jump.md)
  | bpl | bmi | bvc | bvs | bcc | bcs | bne | beq | jmp | jsr | rts | rti
  -- Stack and flag operations (48_stack_flag.md)
  | pha | pla | php | plp | tsx | txs | clc | sec | cli | sei | cld | sed | clv
  -- Control (49_control.md)
  | brk | nop
  deriving DecidableEq, Repr

/-- How many operand bytes a mode consumes (41_addressing.md R464). -/
def Mode.operandBytes : Mode → Nat
  | .implied | .accumulator => 0
  | .immediate | .zeroPage | .zeroPageX | .zeroPageY => 1
  | .indexedIndirectX | .indirectIndexedY | .relative => 1
  | .absolute | .absoluteX | .absoluteY | .indirect => 2

/-- The instruction descriptor: operation, addressing mode and byte length (40_sequencer.md R403). -/
structure Descriptor where
  op : Op
  mode : Mode
  len : Nat
  deriving DecidableEq, Repr

/-- The documented instructions, one constructor per row of spec/opcode_table.json. A constructor is
the mnemonic with its mode's suffix: Imm immediate, Zp/ZpX/ZpY zero page, Abs/AbsX/AbsY absolute, Ind
indirect, IndX `(zp,X)`, IndY `(zp),Y`, Acc accumulator. Its argument is the operand of
30_encoding.md R302: an immediate byte `v`, a zero-page byte `z`, a displacement byte `d`, or a 16-bit
address `w`. -/
inductive Instr where
  -- Loads, stores and transfers (42_load_store_transfer.md)
  | ldaImm (v : Byte) | ldaZp (z : Byte) | ldaZpX (z : Byte) | ldaAbs (w : Addr)
  | ldaAbsX (w : Addr) | ldaAbsY (w : Addr) | ldaIndX (z : Byte) | ldaIndY (z : Byte)
  | ldxImm (v : Byte) | ldxZp (z : Byte) | ldxZpY (z : Byte) | ldxAbs (w : Addr)
  | ldxAbsY (w : Addr)
  | ldyImm (v : Byte) | ldyZp (z : Byte) | ldyZpX (z : Byte) | ldyAbs (w : Addr)
  | ldyAbsX (w : Addr)
  | staZp (z : Byte) | staZpX (z : Byte) | staAbs (w : Addr) | staAbsX (w : Addr)
  | staAbsY (w : Addr) | staIndX (z : Byte) | staIndY (z : Byte)
  | stxZp (z : Byte) | stxZpY (z : Byte) | stxAbs (w : Addr)
  | styZp (z : Byte) | styZpX (z : Byte) | styAbs (w : Addr)
  | tax
  | tay
  | txa
  | tya
  -- Arithmetic (43_arithmetic.md)
  | adcImm (v : Byte) | adcZp (z : Byte) | adcZpX (z : Byte) | adcAbs (w : Addr)
  | adcAbsX (w : Addr) | adcAbsY (w : Addr) | adcIndX (z : Byte) | adcIndY (z : Byte)
  | sbcImm (v : Byte) | sbcZp (z : Byte) | sbcZpX (z : Byte) | sbcAbs (w : Addr)
  | sbcAbsX (w : Addr) | sbcAbsY (w : Addr) | sbcIndX (z : Byte) | sbcIndY (z : Byte)
  -- Logical operations (44_logical.md)
  | andImm (v : Byte) | andZp (z : Byte) | andZpX (z : Byte) | andAbs (w : Addr)
  | andAbsX (w : Addr) | andAbsY (w : Addr) | andIndX (z : Byte) | andIndY (z : Byte)
  | oraImm (v : Byte) | oraZp (z : Byte) | oraZpX (z : Byte) | oraAbs (w : Addr)
  | oraAbsX (w : Addr) | oraAbsY (w : Addr) | oraIndX (z : Byte) | oraIndY (z : Byte)
  | eorImm (v : Byte) | eorZp (z : Byte) | eorZpX (z : Byte) | eorAbs (w : Addr)
  | eorAbsX (w : Addr) | eorAbsY (w : Addr) | eorIndX (z : Byte) | eorIndY (z : Byte)
  | bitZp (z : Byte) | bitAbs (w : Addr)
  -- Shifts and rotates (45_shift_rotate.md)
  | aslAcc | aslZp (z : Byte) | aslZpX (z : Byte) | aslAbs (w : Addr) | aslAbsX (w : Addr)
  | lsrAcc | lsrZp (z : Byte) | lsrZpX (z : Byte) | lsrAbs (w : Addr) | lsrAbsX (w : Addr)
  | rolAcc | rolZp (z : Byte) | rolZpX (z : Byte) | rolAbs (w : Addr) | rolAbsX (w : Addr)
  | rorAcc | rorZp (z : Byte) | rorZpX (z : Byte) | rorAbs (w : Addr) | rorAbsX (w : Addr)
  -- Compare, increment and decrement (46_compare_incdec.md)
  | cmpImm (v : Byte) | cmpZp (z : Byte) | cmpZpX (z : Byte) | cmpAbs (w : Addr)
  | cmpAbsX (w : Addr) | cmpAbsY (w : Addr) | cmpIndX (z : Byte) | cmpIndY (z : Byte)
  | cpxImm (v : Byte) | cpxZp (z : Byte) | cpxAbs (w : Addr)
  | cpyImm (v : Byte) | cpyZp (z : Byte) | cpyAbs (w : Addr)
  | incZp (z : Byte) | incZpX (z : Byte) | incAbs (w : Addr) | incAbsX (w : Addr)
  | decZp (z : Byte) | decZpX (z : Byte) | decAbs (w : Addr) | decAbsX (w : Addr)
  | inx
  | dex
  | iny
  | dey
  -- Branches, jumps, calls and returns (47_branch_jump.md)
  | bpl (d : Byte)
  | bmi (d : Byte)
  | bvc (d : Byte)
  | bvs (d : Byte)
  | bcc (d : Byte)
  | bcs (d : Byte)
  | bne (d : Byte)
  | beq (d : Byte)
  | jmpAbs (w : Addr) | jmpInd (w : Addr)
  | jsr (w : Addr)
  | rts
  | rti
  -- Stack and flag operations (48_stack_flag.md)
  | pha
  | pla
  | php
  | plp
  | tsx
  | txs
  | clc
  | sec
  | cli
  | sei
  | cld
  | sed
  | clv
  -- Control (49_control.md)
  | brk
  | nop
  deriving DecidableEq, Repr

/-- The operation an instruction performs (40_sequencer.md R403). -/
def Instr.op : Instr → Op
  | .ldaImm _ | .ldaZp _ | .ldaZpX _ | .ldaAbs _ | .ldaAbsX _ | .ldaAbsY _ | .ldaIndX _
  | .ldaIndY _ => .lda
  | .ldxImm _ | .ldxZp _ | .ldxZpY _ | .ldxAbs _ | .ldxAbsY _ => .ldx
  | .ldyImm _ | .ldyZp _ | .ldyZpX _ | .ldyAbs _ | .ldyAbsX _ => .ldy
  | .staZp _ | .staZpX _ | .staAbs _ | .staAbsX _ | .staAbsY _ | .staIndX _ | .staIndY _ => .sta
  | .stxZp _ | .stxZpY _ | .stxAbs _ => .stx
  | .styZp _ | .styZpX _ | .styAbs _ => .sty
  | .tax => .tax
  | .tay => .tay
  | .txa => .txa
  | .tya => .tya
  | .adcImm _ | .adcZp _ | .adcZpX _ | .adcAbs _ | .adcAbsX _ | .adcAbsY _ | .adcIndX _
  | .adcIndY _ => .adc
  | .sbcImm _ | .sbcZp _ | .sbcZpX _ | .sbcAbs _ | .sbcAbsX _ | .sbcAbsY _ | .sbcIndX _
  | .sbcIndY _ => .sbc
  | .andImm _ | .andZp _ | .andZpX _ | .andAbs _ | .andAbsX _ | .andAbsY _ | .andIndX _
  | .andIndY _ => .and
  | .oraImm _ | .oraZp _ | .oraZpX _ | .oraAbs _ | .oraAbsX _ | .oraAbsY _ | .oraIndX _
  | .oraIndY _ => .ora
  | .eorImm _ | .eorZp _ | .eorZpX _ | .eorAbs _ | .eorAbsX _ | .eorAbsY _ | .eorIndX _
  | .eorIndY _ => .eor
  | .bitZp _ | .bitAbs _ => .bit
  | .aslAcc | .aslZp _ | .aslZpX _ | .aslAbs _ | .aslAbsX _ => .asl
  | .lsrAcc | .lsrZp _ | .lsrZpX _ | .lsrAbs _ | .lsrAbsX _ => .lsr
  | .rolAcc | .rolZp _ | .rolZpX _ | .rolAbs _ | .rolAbsX _ => .rol
  | .rorAcc | .rorZp _ | .rorZpX _ | .rorAbs _ | .rorAbsX _ => .ror
  | .cmpImm _ | .cmpZp _ | .cmpZpX _ | .cmpAbs _ | .cmpAbsX _ | .cmpAbsY _ | .cmpIndX _
  | .cmpIndY _ => .cmp
  | .cpxImm _ | .cpxZp _ | .cpxAbs _ => .cpx
  | .cpyImm _ | .cpyZp _ | .cpyAbs _ => .cpy
  | .incZp _ | .incZpX _ | .incAbs _ | .incAbsX _ => .inc
  | .decZp _ | .decZpX _ | .decAbs _ | .decAbsX _ => .dec
  | .inx => .inx
  | .dex => .dex
  | .iny => .iny
  | .dey => .dey
  | .bpl _ => .bpl
  | .bmi _ => .bmi
  | .bvc _ => .bvc
  | .bvs _ => .bvs
  | .bcc _ => .bcc
  | .bcs _ => .bcs
  | .bne _ => .bne
  | .beq _ => .beq
  | .jmpAbs _ | .jmpInd _ => .jmp
  | .jsr _ => .jsr
  | .rts => .rts
  | .rti => .rti
  | .pha => .pha
  | .pla => .pla
  | .php => .php
  | .plp => .plp
  | .tsx => .tsx
  | .txs => .txs
  | .clc => .clc
  | .sec => .sec
  | .cli => .cli
  | .sei => .sei
  | .cld => .cld
  | .sed => .sed
  | .clv => .clv
  | .brk => .brk
  | .nop => .nop

/-- The addressing mode of an instruction (30_encoding.md R320). -/
def Instr.mode : Instr → Mode
  | .tax | .tay | .txa | .tya | .inx | .dex | .iny | .dey | .rts | .rti | .pha | .pla | .php
  | .plp | .tsx | .txs | .clc | .sec | .cli | .sei | .cld | .sed | .clv | .brk | .nop => .implied
  | .aslAcc | .lsrAcc | .rolAcc | .rorAcc => .accumulator
  | .ldaImm _ | .ldxImm _ | .ldyImm _ | .adcImm _ | .sbcImm _ | .andImm _ | .oraImm _ | .eorImm _
  | .cmpImm _ | .cpxImm _ | .cpyImm _ => .immediate
  | .ldaZp _ | .ldxZp _ | .ldyZp _ | .staZp _ | .stxZp _ | .styZp _ | .adcZp _ | .sbcZp _
  | .andZp _ | .oraZp _ | .eorZp _ | .bitZp _ | .aslZp _ | .lsrZp _ | .rolZp _ | .rorZp _
  | .cmpZp _ | .cpxZp _ | .cpyZp _ | .incZp _ | .decZp _ => .zeroPage
  | .ldaZpX _ | .ldyZpX _ | .staZpX _ | .styZpX _ | .adcZpX _ | .sbcZpX _ | .andZpX _ | .oraZpX _
  | .eorZpX _ | .aslZpX _ | .lsrZpX _ | .rolZpX _ | .rorZpX _ | .cmpZpX _ | .incZpX _
  | .decZpX _ => .zeroPageX
  | .ldxZpY _ | .stxZpY _ => .zeroPageY
  | .ldaAbs _ | .ldxAbs _ | .ldyAbs _ | .staAbs _ | .stxAbs _ | .styAbs _ | .adcAbs _ | .sbcAbs _
  | .andAbs _ | .oraAbs _ | .eorAbs _ | .bitAbs _ | .aslAbs _ | .lsrAbs _ | .rolAbs _ | .rorAbs _
  | .cmpAbs _ | .cpxAbs _ | .cpyAbs _ | .incAbs _ | .decAbs _ | .jmpAbs _ | .jsr _ => .absolute
  | .ldaAbsX _ | .ldyAbsX _ | .staAbsX _ | .adcAbsX _ | .sbcAbsX _ | .andAbsX _ | .oraAbsX _
  | .eorAbsX _ | .aslAbsX _ | .lsrAbsX _ | .rolAbsX _ | .rorAbsX _ | .cmpAbsX _ | .incAbsX _
  | .decAbsX _ => .absoluteX
  | .ldaAbsY _ | .ldxAbsY _ | .staAbsY _ | .adcAbsY _ | .sbcAbsY _ | .andAbsY _ | .oraAbsY _
  | .eorAbsY _ | .cmpAbsY _ => .absoluteY
  | .jmpInd _ => .indirect
  | .ldaIndX _ | .staIndX _ | .adcIndX _ | .sbcIndX _ | .andIndX _ | .oraIndX _ | .eorIndX _
  | .cmpIndX _ => .indexedIndirectX
  | .ldaIndY _ | .staIndY _ | .adcIndY _ | .sbcIndY _ | .andIndY _ | .oraIndY _ | .eorIndY _
  | .cmpIndY _ => .indirectIndexedY
  | .bpl _ | .bmi _ | .bvc _ | .bvs _ | .bcc _ | .bcs _ | .bne _ | .beq _ => .relative

/-- The byte length of an instruction: 1 plus its mode's operand bytes (40_sequencer.md R403). -/
def Instr.length (i : Instr) : Nat := 1 + i.mode.operandBytes

/-- The descriptor the Decoder yields for an instruction (40_sequencer.md R403). -/
def Instr.descriptor (i : Instr) : Descriptor := ⟨i.op, i.mode, i.length⟩

end Sys2Proof
end

