-- ==== Sys2Proof/WellFormed.lean ====
section
/-! DEFINITION. Well-formed descriptors: the pairings of operation and addressing mode that the
`Encoding` lines of the instruction rules list, each with the length its mode gives
(40_sequencer.md R403; 30_encoding.md R321 "a well-formed descriptor for a documented instruction").
An operand byte is never checked (30_encoding.md R332), so an instruction is well-formed when its
descriptor is. -/

namespace Sys2Proof

/-- The addressing modes of an operation, from the `Encoding` line of its rule (42_load_store_transfer.md
to 49_control.md). -/
def Op.modes : Op → List Mode
  | .lda | .adc | .sbc | .and | .ora | .eor | .cmp =>
    [.immediate, .zeroPage, .zeroPageX,
      .absolute, .absoluteX, .absoluteY, .indexedIndirectX, .indirectIndexedY]
  | .ldx =>
    [.immediate, .zeroPage, .zeroPageY, .absolute, .absoluteY]
  | .ldy =>
    [.immediate, .zeroPage, .zeroPageX, .absolute, .absoluteX]
  | .sta =>
    [.zeroPage, .zeroPageX,
      .absolute, .absoluteX, .absoluteY, .indexedIndirectX, .indirectIndexedY]
  | .stx =>
    [.zeroPage, .zeroPageY, .absolute]
  | .sty =>
    [.zeroPage, .zeroPageX, .absolute]
  | .tax | .tay | .txa | .tya | .inx | .dex | .iny | .dey | .rts | .rti | .pha | .pla | .php
  | .plp | .tsx | .txs | .clc | .sec | .cli | .sei | .cld | .sed | .clv | .brk | .nop =>
    [.implied]
  | .bit =>
    [.zeroPage, .absolute]
  | .asl | .lsr | .rol | .ror =>
    [.accumulator, .zeroPage, .zeroPageX, .absolute, .absoluteX]
  | .cpx | .cpy =>
    [.immediate, .zeroPage, .absolute]
  | .inc | .dec =>
    [.zeroPage, .zeroPageX, .absolute, .absoluteX]
  | .bpl | .bmi | .bvc | .bvs | .bcc | .bcs | .bne | .beq =>
    [.relative]
  | .jmp =>
    [.absolute, .indirect]
  | .jsr =>
    [.absolute]

/-- A descriptor is well-formed when its mode is documented for its operation and its length is the
mode's (40_sequencer.md R403, 41_addressing.md R464). -/
def Descriptor.wellFormed (d : Descriptor) : Bool :=
  decide (d.mode ∈ d.op.modes) && d.len == 1 + d.mode.operandBytes

/-- An instruction is well-formed when its descriptor is. -/
def Instr.wellFormed (i : Instr) : Bool := i.descriptor.wellFormed

end Sys2Proof
end

