-- ==== Sys2Proof/Decode.lean ====
section
/-! DEFINITION. The Decoder (30_encoding.md R300 to R332) and the encoder, both over bytes in memory
order. The decode map is written row by row as the map of 30_encoding.md R320. -/

namespace Sys2Proof

/-- `hi:lo` of 00_scope.md R13: the 16-bit word whose high and low bytes are given. -/
def wordOf (hi lo : Byte) : Addr := hi ++ lo

/-- `w[15:8]`, the high byte of a word. -/
def hiByte (w : Addr) : Byte := w.extractLsb' 8 8

/-- `w[7:0]`, the low byte of a word. -/
def loByte (w : Addr) : Byte := w.extractLsb' 0 8

/-- A documented opcode's format (30_encoding.md R301) with the instruction it makes of its operand
bytes: none, `op8`, or the little-endian word `hi:lo` (R302). -/
inductive Shape where
  | one (i : Instr)
  | two (mk : Byte → Instr)
  | three (mk : Addr → Instr)

/-- The instruction a format makes of the two bytes after the opcode; bytes its format does not have
are not looked at. -/
def Shape.build : Shape → Byte → Byte → Instr
  | .one i, _, _ => i
  | .two mk, op8, _ => mk op8
  | .three mk, lo, hi => mk (wordOf hi lo)

/-- Row 0x of the opcode map (30_encoding.md R320). -/
def opcodeRow0 : List (Option Shape) :=
  [some (.one .brk), some (.two .oraIndX), none, none,
   none, some (.two .oraZp), some (.two .aslZp), none,
   some (.one .php), some (.two .oraImm), some (.one .aslAcc), none,
   none, some (.three .oraAbs), some (.three .aslAbs), none]

/-- Row 1x of the opcode map (30_encoding.md R320). -/
def opcodeRow1 : List (Option Shape) :=
  [some (.two .bpl), some (.two .oraIndY), none, none,
   none, some (.two .oraZpX), some (.two .aslZpX), none,
   some (.one .clc), some (.three .oraAbsY), none, none,
   none, some (.three .oraAbsX), some (.three .aslAbsX), none]

/-- Row 2x of the opcode map (30_encoding.md R320). -/
def opcodeRow2 : List (Option Shape) :=
  [some (.three .jsr), some (.two .andIndX), none, none,
   some (.two .bitZp), some (.two .andZp), some (.two .rolZp), none,
   some (.one .plp), some (.two .andImm), some (.one .rolAcc), none,
   some (.three .bitAbs), some (.three .andAbs), some (.three .rolAbs), none]

/-- Row 3x of the opcode map (30_encoding.md R320). -/
def opcodeRow3 : List (Option Shape) :=
  [some (.two .bmi), some (.two .andIndY), none, none,
   none, some (.two .andZpX), some (.two .rolZpX), none,
   some (.one .sec), some (.three .andAbsY), none, none,
   none, some (.three .andAbsX), some (.three .rolAbsX), none]

/-- Row 4x of the opcode map (30_encoding.md R320). -/
def opcodeRow4 : List (Option Shape) :=
  [some (.one .rti), some (.two .eorIndX), none, none,
   none, some (.two .eorZp), some (.two .lsrZp), none,
   some (.one .pha), some (.two .eorImm), some (.one .lsrAcc), none,
   some (.three .jmpAbs), some (.three .eorAbs), some (.three .lsrAbs), none]

/-- Row 5x of the opcode map (30_encoding.md R320). -/
def opcodeRow5 : List (Option Shape) :=
  [some (.two .bvc), some (.two .eorIndY), none, none,
   none, some (.two .eorZpX), some (.two .lsrZpX), none,
   some (.one .cli), some (.three .eorAbsY), none, none,
   none, some (.three .eorAbsX), some (.three .lsrAbsX), none]

/-- Row 6x of the opcode map (30_encoding.md R320). -/
def opcodeRow6 : List (Option Shape) :=
  [some (.one .rts), some (.two .adcIndX), none, none,
   none, some (.two .adcZp), some (.two .rorZp), none,
   some (.one .pla), some (.two .adcImm), some (.one .rorAcc), none,
   some (.three .jmpInd), some (.three .adcAbs), some (.three .rorAbs), none]

/-- Row 7x of the opcode map (30_encoding.md R320). -/
def opcodeRow7 : List (Option Shape) :=
  [some (.two .bvs), some (.two .adcIndY), none, none,
   none, some (.two .adcZpX), some (.two .rorZpX), none,
   some (.one .sei), some (.three .adcAbsY), none, none,
   none, some (.three .adcAbsX), some (.three .rorAbsX), none]

/-- Row 8x of the opcode map (30_encoding.md R320). -/
def opcodeRow8 : List (Option Shape) :=
  [none, some (.two .staIndX), none, none,
   some (.two .styZp), some (.two .staZp), some (.two .stxZp), none,
   some (.one .dey), none, some (.one .txa), none,
   some (.three .styAbs), some (.three .staAbs), some (.three .stxAbs), none]

/-- Row 9x of the opcode map (30_encoding.md R320). -/
def opcodeRow9 : List (Option Shape) :=
  [some (.two .bcc), some (.two .staIndY), none, none,
   some (.two .styZpX), some (.two .staZpX), some (.two .stxZpY), none,
   some (.one .tya), some (.three .staAbsY), some (.one .txs), none,
   none, some (.three .staAbsX), none, none]

/-- Row Ax of the opcode map (30_encoding.md R320). -/
def opcodeRowA : List (Option Shape) :=
  [some (.two .ldyImm), some (.two .ldaIndX), some (.two .ldxImm), none,
   some (.two .ldyZp), some (.two .ldaZp), some (.two .ldxZp), none,
   some (.one .tay), some (.two .ldaImm), some (.one .tax), none,
   some (.three .ldyAbs), some (.three .ldaAbs), some (.three .ldxAbs), none]

/-- Row Bx of the opcode map (30_encoding.md R320). -/
def opcodeRowB : List (Option Shape) :=
  [some (.two .bcs), some (.two .ldaIndY), none, none,
   some (.two .ldyZpX), some (.two .ldaZpX), some (.two .ldxZpY), none,
   some (.one .clv), some (.three .ldaAbsY), some (.one .tsx), none,
   some (.three .ldyAbsX), some (.three .ldaAbsX), some (.three .ldxAbsY), none]

/-- Row Cx of the opcode map (30_encoding.md R320). -/
def opcodeRowC : List (Option Shape) :=
  [some (.two .cpyImm), some (.two .cmpIndX), none, none,
   some (.two .cpyZp), some (.two .cmpZp), some (.two .decZp), none,
   some (.one .iny), some (.two .cmpImm), some (.one .dex), none,
   some (.three .cpyAbs), some (.three .cmpAbs), some (.three .decAbs), none]

/-- Row Dx of the opcode map (30_encoding.md R320). -/
def opcodeRowD : List (Option Shape) :=
  [some (.two .bne), some (.two .cmpIndY), none, none,
   none, some (.two .cmpZpX), some (.two .decZpX), none,
   some (.one .cld), some (.three .cmpAbsY), none, none,
   none, some (.three .cmpAbsX), some (.three .decAbsX), none]

/-- Row Ex of the opcode map (30_encoding.md R320). -/
def opcodeRowE : List (Option Shape) :=
  [some (.two .cpxImm), some (.two .sbcIndX), none, none,
   some (.two .cpxZp), some (.two .sbcZp), some (.two .incZp), none,
   some (.one .inx), some (.two .sbcImm), some (.one .nop), none,
   some (.three .cpxAbs), some (.three .sbcAbs), some (.three .incAbs), none]

/-- Row Fx of the opcode map (30_encoding.md R320). -/
def opcodeRowF : List (Option Shape) :=
  [some (.two .beq), some (.two .sbcIndY), none, none,
   none, some (.two .sbcZpX), some (.two .incZpX), none,
   some (.one .sed), some (.three .sbcAbsY), none, none,
   none, some (.three .sbcAbsX), some (.three .incAbsX), none]

/-- The complete decode map (30_encoding.md R320): one row per high nibble. `none` is an illegal opcode
(R330). -/
def opcodeMap : List (List (Option Shape)) :=
  [opcodeRow0, opcodeRow1, opcodeRow2, opcodeRow3, opcodeRow4, opcodeRow5, opcodeRow6, opcodeRow7,
   opcodeRow8, opcodeRow9, opcodeRowA, opcodeRowB, opcodeRowC, opcodeRowD, opcodeRowE, opcodeRowF]

/-- The cell of the decode map that an opcode byte selects. -/
def shapeOf (op : Byte) : Option Shape :=
  (opcodeMap.getD (op.toNat / 16) []).getD (op.toNat % 16) none

/-- `decode` of 30_encoding.md R322: the descriptor of a documented opcode, `none` for an illegal one.
The operand bytes have no part in it. -/
def decodeOpcode (op : Byte) : Option Descriptor :=
  (shapeOf op).map fun sh => (sh.build 0#8 0#8).descriptor

/-- Why bytes do not decode: no documented instruction has this opcode (30_encoding.md R330), or the
list ends before the instruction does. -/
inductive DecodeError where
  | illegalOpcode (op : Byte)
  | truncated
  deriving DecidableEq, Repr

/-- The Decoder on a list of bytes in memory order: the instruction at its front and the bytes after
it. It is total; every rejection has a name. -/
def decode : List Byte → Except DecodeError (Instr × List Byte)
  | [] => .error .truncated
  | op :: rest =>
    match shapeOf op, rest with
    | none, _ => .error (.illegalOpcode op)
    | some (.one i), _ => .ok (i, rest)
    | some (.two mk), op8 :: tail => .ok (mk op8, tail)
    | some (.three mk), lo :: hi :: tail => .ok (mk (wordOf hi lo), tail)
    | some _, _ => .error .truncated

/-- The three bytes of the word `w` as spec/opcode_table.json numbers bits: bit 0 is the least
significant bit of the first byte, and every bit above `nbits` is 0. -/
def tableBytes (nbits w : Nat) : List Byte :=
  let v := w % 2 ^ nbits
  [BitVec.ofNat 8 v, BitVec.ofNat 8 (v / 256), BitVec.ofNat 8 (v / 65536)]

/-- The instruction the Decoder reads from a table word, laid out as the hardware stores it
(30_encoding.md R300: the opcode byte first). -/
def decodeTableWord (nbits w : Nat) : Option Instr :=
  match decode (tableBytes nbits w) with
  | .ok (i, _) => some i
  | .error _ => none

/-- The bytes of a 16-bit operand in memory order, low byte first (30_encoding.md R301). -/
def wordBytes (w : Addr) : List Byte := [loByte w, hiByte w]

/-- The bytes of an instruction in memory order: its opcode from the `Encoding` line of its rule
(42_load_store_transfer.md to 49_control.md), then its operand bytes (30_encoding.md R301). -/
def encode : Instr → List Byte
  -- Loads, stores and transfers (42_load_store_transfer.md)
  | .ldaImm v => [0xA9#8, v]
  | .ldaZp z => [0xA5#8, z]
  | .ldaZpX z => [0xB5#8, z]
  | .ldaAbs w => 0xAD#8 :: wordBytes w
  | .ldaAbsX w => 0xBD#8 :: wordBytes w
  | .ldaAbsY w => 0xB9#8 :: wordBytes w
  | .ldaIndX z => [0xA1#8, z]
  | .ldaIndY z => [0xB1#8, z]
  | .ldxImm v => [0xA2#8, v]
  | .ldxZp z => [0xA6#8, z]
  | .ldxZpY z => [0xB6#8, z]
  | .ldxAbs w => 0xAE#8 :: wordBytes w
  | .ldxAbsY w => 0xBE#8 :: wordBytes w
  | .ldyImm v => [0xA0#8, v]
  | .ldyZp z => [0xA4#8, z]
  | .ldyZpX z => [0xB4#8, z]
  | .ldyAbs w => 0xAC#8 :: wordBytes w
  | .ldyAbsX w => 0xBC#8 :: wordBytes w
  | .staZp z => [0x85#8, z]
  | .staZpX z => [0x95#8, z]
  | .staAbs w => 0x8D#8 :: wordBytes w
  | .staAbsX w => 0x9D#8 :: wordBytes w
  | .staAbsY w => 0x99#8 :: wordBytes w
  | .staIndX z => [0x81#8, z]
  | .staIndY z => [0x91#8, z]
  | .stxZp z => [0x86#8, z]
  | .stxZpY z => [0x96#8, z]
  | .stxAbs w => 0x8E#8 :: wordBytes w
  | .styZp z => [0x84#8, z]
  | .styZpX z => [0x94#8, z]
  | .styAbs w => 0x8C#8 :: wordBytes w
  | .tax => [0xAA#8]
  | .tay => [0xA8#8]
  | .txa => [0x8A#8]
  | .tya => [0x98#8]
  -- Arithmetic (43_arithmetic.md)
  | .adcImm v => [0x69#8, v]
  | .adcZp z => [0x65#8, z]
  | .adcZpX z => [0x75#8, z]
  | .adcAbs w => 0x6D#8 :: wordBytes w
  | .adcAbsX w => 0x7D#8 :: wordBytes w
  | .adcAbsY w => 0x79#8 :: wordBytes w
  | .adcIndX z => [0x61#8, z]
  | .adcIndY z => [0x71#8, z]
  | .sbcImm v => [0xE9#8, v]
  | .sbcZp z => [0xE5#8, z]
  | .sbcZpX z => [0xF5#8, z]
  | .sbcAbs w => 0xED#8 :: wordBytes w
  | .sbcAbsX w => 0xFD#8 :: wordBytes w
  | .sbcAbsY w => 0xF9#8 :: wordBytes w
  | .sbcIndX z => [0xE1#8, z]
  | .sbcIndY z => [0xF1#8, z]
  -- Logical operations (44_logical.md)
  | .andImm v => [0x29#8, v]
  | .andZp z => [0x25#8, z]
  | .andZpX z => [0x35#8, z]
  | .andAbs w => 0x2D#8 :: wordBytes w
  | .andAbsX w => 0x3D#8 :: wordBytes w
  | .andAbsY w => 0x39#8 :: wordBytes w
  | .andIndX z => [0x21#8, z]
  | .andIndY z => [0x31#8, z]
  | .oraImm v => [0x09#8, v]
  | .oraZp z => [0x05#8, z]
  | .oraZpX z => [0x15#8, z]
  | .oraAbs w => 0x0D#8 :: wordBytes w
  | .oraAbsX w => 0x1D#8 :: wordBytes w
  | .oraAbsY w => 0x19#8 :: wordBytes w
  | .oraIndX z => [0x01#8, z]
  | .oraIndY z => [0x11#8, z]
  | .eorImm v => [0x49#8, v]
  | .eorZp z => [0x45#8, z]
  | .eorZpX z => [0x55#8, z]
  | .eorAbs w => 0x4D#8 :: wordBytes w
  | .eorAbsX w => 0x5D#8 :: wordBytes w
  | .eorAbsY w => 0x59#8 :: wordBytes w
  | .eorIndX z => [0x41#8, z]
  | .eorIndY z => [0x51#8, z]
  | .bitZp z => [0x24#8, z]
  | .bitAbs w => 0x2C#8 :: wordBytes w
  -- Shifts and rotates (45_shift_rotate.md)
  | .aslAcc => [0x0A#8]
  | .aslZp z => [0x06#8, z]
  | .aslZpX z => [0x16#8, z]
  | .aslAbs w => 0x0E#8 :: wordBytes w
  | .aslAbsX w => 0x1E#8 :: wordBytes w
  | .lsrAcc => [0x4A#8]
  | .lsrZp z => [0x46#8, z]
  | .lsrZpX z => [0x56#8, z]
  | .lsrAbs w => 0x4E#8 :: wordBytes w
  | .lsrAbsX w => 0x5E#8 :: wordBytes w
  | .rolAcc => [0x2A#8]
  | .rolZp z => [0x26#8, z]
  | .rolZpX z => [0x36#8, z]
  | .rolAbs w => 0x2E#8 :: wordBytes w
  | .rolAbsX w => 0x3E#8 :: wordBytes w
  | .rorAcc => [0x6A#8]
  | .rorZp z => [0x66#8, z]
  | .rorZpX z => [0x76#8, z]
  | .rorAbs w => 0x6E#8 :: wordBytes w
  | .rorAbsX w => 0x7E#8 :: wordBytes w
  -- Compare, increment and decrement (46_compare_incdec.md)
  | .cmpImm v => [0xC9#8, v]
  | .cmpZp z => [0xC5#8, z]
  | .cmpZpX z => [0xD5#8, z]
  | .cmpAbs w => 0xCD#8 :: wordBytes w
  | .cmpAbsX w => 0xDD#8 :: wordBytes w
  | .cmpAbsY w => 0xD9#8 :: wordBytes w
  | .cmpIndX z => [0xC1#8, z]
  | .cmpIndY z => [0xD1#8, z]
  | .cpxImm v => [0xE0#8, v]
  | .cpxZp z => [0xE4#8, z]
  | .cpxAbs w => 0xEC#8 :: wordBytes w
  | .cpyImm v => [0xC0#8, v]
  | .cpyZp z => [0xC4#8, z]
  | .cpyAbs w => 0xCC#8 :: wordBytes w
  | .incZp z => [0xE6#8, z]
  | .incZpX z => [0xF6#8, z]
  | .incAbs w => 0xEE#8 :: wordBytes w
  | .incAbsX w => 0xFE#8 :: wordBytes w
  | .decZp z => [0xC6#8, z]
  | .decZpX z => [0xD6#8, z]
  | .decAbs w => 0xCE#8 :: wordBytes w
  | .decAbsX w => 0xDE#8 :: wordBytes w
  | .inx => [0xE8#8]
  | .dex => [0xCA#8]
  | .iny => [0xC8#8]
  | .dey => [0x88#8]
  -- Branches, jumps, calls and returns (47_branch_jump.md)
  | .bpl d => [0x10#8, d]
  | .bmi d => [0x30#8, d]
  | .bvc d => [0x50#8, d]
  | .bvs d => [0x70#8, d]
  | .bcc d => [0x90#8, d]
  | .bcs d => [0xB0#8, d]
  | .bne d => [0xD0#8, d]
  | .beq d => [0xF0#8, d]
  | .jmpAbs w => 0x4C#8 :: wordBytes w
  | .jmpInd w => 0x6C#8 :: wordBytes w
  | .jsr w => 0x20#8 :: wordBytes w
  | .rts => [0x60#8]
  | .rti => [0x40#8]
  -- Stack and flag operations (48_stack_flag.md)
  | .pha => [0x48#8]
  | .pla => [0x68#8]
  | .php => [0x08#8]
  | .plp => [0x28#8]
  | .tsx => [0xBA#8]
  | .txs => [0x9A#8]
  | .clc => [0x18#8]
  | .sec => [0x38#8]
  | .cli => [0x58#8]
  | .sei => [0x78#8]
  | .cld => [0xD8#8]
  | .sed => [0xF8#8]
  | .clv => [0xB8#8]
  -- Control (49_control.md)
  | .brk => [0x00#8]
  | .nop => [0xEA#8]

end Sys2Proof
end

