-- ==== Sys2Proof/Config.lean ====
section
/-! DEFINITION. What the host supplies once at construction or reset (00_scope.md R11), and the free
values of the one behaviour the spec leaves to "any value" (43_arithmetic.md R554). -/

namespace Sys2Proof

/-- `DECIMAL_FLAGS` (00_scope.md R11, 43_arithmetic.md R555): where decimal ADC takes N and V from. -/
inductive DecimalFlags where
  | binaryDerived
  | nmosIntermediate
  deriving DecidableEq, Repr

/-- `INVALID_BCD` (00_scope.md R11, 43_arithmetic.md R554): the result of decimal ADC and SBC on
operands that are not valid BCD. -/
inductive InvalidBcd where
  | algorithm
  | anyValue
  deriving DecidableEq, Repr

/-- The configuration of 00_scope.md R11. It is constant between two resets (70_reset_and_hazards.md
R1003). -/
structure Config where
  /-- `ROM_START`: writes to any address at or above it fault. -/
  romStart : Addr
  /-- `RESET_PC`: the PC after a reset without override; `none` selects the reset vector. -/
  resetPc : Option Addr
  /-- `STACK_WRAP`: S wraps modulo 256 and no stack fault occurs. -/
  stackWrap : Bool
  /-- `RESET_SP`: S after reset. -/
  resetSp : Byte
  /-- `RESET_P`: P after reset. -/
  resetP : Byte
  /-- `DECIMAL_FLAGS`. -/
  decimalFlags : DecimalFlags
  /-- `INVALID_BCD`. -/
  invalidBcd : InvalidBcd
  deriving DecidableEq, Repr

/-- The defaults of the table of 00_scope.md R11. -/
def Config.default : Config where
  romStart := 0xFFFF#16
  resetPc := some 0x0400#16
  stackWrap := false
  resetSp := 0xFD#8
  resetP := 0x24#8
  decimalFlags := .binaryDerived
  invalidBcd := .algorithm

/-- The `n`-th free value for A after a decimal ADC or SBC on non-BCD operands under `AnyValue`
(43_arithmetic.md R554: "the model draws A's new value and C freely"). It has no body, so nothing can
be proved of it. -/
opaque Config.freeDecimalA : Nat → Byte

/-- The `n`-th free value for C, drawn with `freeDecimalA` (43_arithmetic.md R554). -/
opaque Config.freeDecimalC : Nat → Bool

end Sys2Proof
end

