-- ==== Sys2Proof/Machine/State.lean ====
section
/-! DEFINITION. The state of the CORE (10_state.md R100) with the memory and the configuration it runs
with, as plain data; the fault reasons (60_exceptions.md R900); and the state after reset. -/

namespace Sys2Proof.Machine

/-- The four fault reasons, in the order of 60_exceptions.md R900. A fault is recorded in the state by
the step that raises it, and reported by every step after it until a reset (R910, R911). Each is the
spec's own outcome, so stopping with one is safe. -/
inductive Fault where
  /-- Raised by `takeIllegalOpcode` on the fetch of an opcode that is not documented: the opcode and the
  address it was fetched from. Safe: the spec names this outcome. -/
  | illegalOpcode (opcode : Byte) (address : Addr)
  /-- Raised by `push` at S = 0x00 with `STACK_WRAP` off. Safe: the spec names this outcome. -/
  | stackOverflow
  /-- Raised by `pull` at S = 0xFF with `STACK_WRAP` off. Safe: the spec names this outcome. -/
  | stackUnderflow
  /-- Raised by `memWrite` at or above `ROM_START`: the target address. Safe: the spec names this
  outcome. -/
  | romViolation (address : Addr)
  deriving DecidableEq, Repr

/-- Why the machine gives no meaning. No `step` of `State` is ever refused. -/
inductive Refusal where
  /-- Raised by an arm of `exec` that has no meaning yet; no arm does. Safe. -/
  | notModelled (mnemonic : String)
  /-- Raised by `hostStep` on a machine that was constructed and never reset: "`step` is refused"
  (70_reset_and_hazards.md R1002). Safe. -/
  | neverReset
  deriving DecidableEq, Repr

/-- The 64 KiB memory (20_memory.md R200) as the list of the bytes that differ from what an unlisted
address reads as, by strictly rising address. -/
abbrev Memory := List Host.Cell

/-- What an address the list does not hold reads as. DESIGN CHOICE (log 3, unsafe): the spec leaves a
byte nobody loaded arbitrary (70_reset_and_hazards.md R1002). -/
def Memory.unlisted : Byte := 0x00#8

/-- The canonical form as a check from a lower bound on: addresses strictly rising from `lo`, each
below 2^16, no byte equal to `unlisted`. -/
def Memory.wfFrom : Nat → Memory → Bool
  | _, [] => true
  | lo, (k, v) :: rest =>
    decide (lo ≤ k) && decide (k < 2 ^ 16) && decide (v ≠ Memory.unlisted) &&
      Memory.wfFrom (k + 1) rest

/-- The canonical form, in which equal memories are equal lists. -/
def Memory.wf (m : Memory) : Bool := Memory.wfFrom 0 m

/-- The state: `CoreState` of 10_state.md R100, the memory and the configuration a step runs with
(40_sequencer.md R400), and the model's own counter of free values drawn. -/
structure State where
  /-- A, the accumulator (10_state.md R102). -/
  a : Byte
  /-- X, an index register (10_state.md R103). -/
  x : Byte
  /-- Y, an index register (10_state.md R104). -/
  y : Byte
  /-- S, the stack pointer, an offset into page 1 (10_state.md R105). -/
  sp : Byte
  /-- P, the processor status, all eight bits stored (10_state.md R110, R111). -/
  p : Byte
  /-- PC, the program counter (10_state.md R106). -/
  pc : Addr
  /-- `none` is Running, `some f` is Halted-on-Fault with reason `f` (10_state.md R115). -/
  fault : Option Fault
  /-- The memory behind the memory interface (20_memory.md R200). -/
  mem : Memory
  /-- The configuration, constant between two resets (70_reset_and_hazards.md R1003). The spec makes it an argument of the step;
  carrying it here is a DESIGN CHOICE (log 4). -/
  cfg : Config
  /-- How many free values have been drawn (43_arithmetic.md R554). The model's own field
  (DESIGN CHOICE, log 5). -/
  draws : Nat
  deriving DecidableEq, Repr

/-- The state with A replaced. -/
def State.setA (s : State) (v : Byte) : State := { s with a := v }

/-- The state with X replaced. -/
def State.setX (s : State) (v : Byte) : State := { s with x := v }

/-- The state with Y replaced. -/
def State.setY (s : State) (v : Byte) : State := { s with y := v }

/-- The state with S replaced. -/
def State.setSp (s : State) (v : Byte) : State := { s with sp := v }

/-- The state with P replaced. -/
def State.setP (s : State) (v : Byte) : State := { s with p := v }

/-- The state with PC replaced. -/
def State.setPc (s : State) (v : Addr) : State := { s with pc := v }

/-- The state with the fault record replaced. -/
def State.setFault (s : State) (v : Option Fault) : State := { s with fault := v }

/-- The state with the memory replaced. -/
def State.setMem (s : State) (v : Memory) : State := { s with mem := v }

/-- The state with the configuration replaced. -/
def State.setCfg (s : State) (v : Config) : State := { s with cfg := v }

/-- The state with the counter of free values replaced. -/
def State.setDraws (s : State) (v : Nat) : State := { s with draws := v }

/-- The state after the first reset, under the default configuration and without an override
(70_reset_and_hazards.md R1000, R1003): PC, S, P and fault as that rule says. A, X and Y, which the
spec leaves arbitrary, are 0x00 (DESIGN CHOICE, log 2, unsafe); memory lists nothing (DESIGN CHOICE,
log 3, unsafe); no free value has been drawn (DESIGN CHOICE, log 5). The configuration is the default
(DESIGN CHOICE, log 4). -/
def State.reset : State where
  a := 0x00#8
  x := 0x00#8
  y := 0x00#8
  sp := 0xFD#8
  p := 0x24#8
  pc := 0x0400#16
  fault := none
  mem := []
  cfg := Config.default
  draws := 0

end Sys2Proof.Machine
end

