-- ==== Sys2Proof/Machine/Flags.lean ====
section
/-! DEFINITION. The processor status P as named flags (10_state.md R110) and every flag computation the
instruction rules share: SetNZ, the binary and decimal adders, and the compare helper. -/

namespace Sys2Proof.Machine

/-- The eight bits of P (10_state.md R110). -/
inductive Flag where
  | c | z | i | d | b | u | v | n
  deriving DecidableEq, Repr

/-- The bit position of a flag (10_state.md R110). -/
def Flag.bit : Flag → Nat
  | .c => 0
  | .z => 1
  | .i => 2
  | .d => 3
  | .b => 4
  | .u => 5
  | .v => 6
  | .n => 7

/-- The byte with only that flag's bit set. -/
def Flag.mask (f : Flag) : Byte := 0x01#8 <<< f.bit

/-- A flag of a status byte. -/
def getFlag (p : Byte) (f : Flag) : Bool := p.getLsbD f.bit

/-- A status byte with one flag written and every other bit kept (10_state.md R112). -/
def putFlag (p : Byte) (f : Flag) (b : Bool) : Byte :=
  if b then p ||| f.mask else p &&& ~~~f.mask

/-- `P.f`, a flag of the state. -/
def State.flag (s : State) (f : Flag) : Bool := getFlag s.p f

/-- `P.f <- b`. -/
def State.setFlag (s : State) (f : Flag) (b : Bool) : State := s.setP (putFlag s.p f b)

/-- `v[7]`, the sign bit of a byte. -/
def bit7 (v : Byte) : Bool := v.getLsbD 7

/-- `v[0]`, the low bit of a byte. -/
def bit0 (v : Byte) : Bool := v.getLsbD 0

/-- `SetNZ(v)` (40_sequencer.md R425): N from bit 7, Z when the byte is zero, no other bit of P. -/
def setNZ (v : Byte) (s : State) : State :=
  (s.setFlag .n (bit7 v)).setFlag .z (v == 0x00#8)

/-- The byte PHP and BRK push: P with B and U set (48_stack_flag.md R802, 49_control.md R850). -/
def pushedP (p : Byte) : Byte := p ||| 0x30#8

/-- What an 8-bit addition or subtraction yields: result, carry out, signed overflow. -/
structure Sum where
  r : Byte
  carry : Bool
  overflow : Bool
  deriving DecidableEq, Repr

/-- The signed overflow of an addition (43_arithmetic.md R550): the operands share a sign that the
result does not have. -/
def addOverflow (a m r : Byte) : Bool := bit7 (~~~(a ^^^ m) &&& (a ^^^ r))

/-- The signed overflow of a subtraction (43_arithmetic.md R551). -/
def subOverflow (a m r : Byte) : Bool := bit7 ((a ^^^ m) &&& (a ^^^ r))

/-- `BinAdd(A, M, c)` (43_arithmetic.md R550). -/
def binAdd (a m : Byte) (c : Bool) : Sum :=
  let s := a.toNat + m.toNat + c.toNat
  let r := BitVec.ofNat 8 s
  ⟨r, decide (255 < s), addOverflow a m r⟩

/-- `BinSub(A, M, c)` (43_arithmetic.md R551): the carry means "no borrow". -/
def binSub (a m : Byte) (c : Bool) : Sum :=
  let d : Int := a.toNat - m.toNat - (1 - c.toNat)
  let r := BitVec.ofInt 8 d
  ⟨r, decide (0 ≤ d), subOverflow a m r⟩

/-- What a decimal addition yields: result, carry out, and the intermediate before the high nibble's
correction (43_arithmetic.md R552). -/
structure DecimalSum where
  r : Byte
  carry : Bool
  t : Byte
  deriving DecidableEq, Repr

/-- The correction of one decimal digit of a sum: 6 more when it exceeds 9 (43_arithmetic.md R552). -/
def addDigitFix (digit : Nat) : Nat := if 9 < digit then digit + 6 else digit

/-- `DecAdd(A, M, c)` (43_arithmetic.md R552). -/
def decAdd (a m : Byte) (c : Bool) : DecimalSum :=
  let lo := addDigitFix (a.toNat % 16 + m.toNat % 16 + c.toNat)
  let hi := a.toNat / 16 + m.toNat / 16 + (if 15 < lo then 1 else 0)
  let fixed := addDigitFix hi
  ⟨BitVec.ofNat 8 (fixed * 16 + lo % 16), decide (15 < fixed), BitVec.ofNat 8 (hi * 16 + lo % 16)⟩

/-- `DecSub(A, M, c)` (43_arithmetic.md R553): the result and the binary no-borrow. -/
def decSub (a m : Byte) (c : Bool) : Byte × Bool :=
  let lo : Int := ((a.toNat % 16 : Nat) : Int) - ((m.toNat % 16 : Nat) : Int) - (1 - c.toNat)
  let hi : Int := ((a.toNat / 16 : Nat) : Int) - ((m.toNat / 16 : Nat) : Int)
  let lo' := if lo < 0 then lo - 6 else lo
  let hi' := if lo < 0 then hi - 1 else hi
  let hi'' := if hi' < 0 then hi' - 6 else hi'
  (BitVec.ofInt 8 (hi'' * 16 + lo' % 16), (binSub a m c).carry)

/-- A valid BCD byte: both nibbles at most 9 (00_scope.md R20). -/
def validBcd (v : Byte) : Bool := decide (v.toNat / 16 ≤ 9) && decide (v.toNat % 16 ≤ 9)

/-- `Compare(R, M)` (46_compare_incdec.md R700): C is "no borrow", Z is equality, N is bit 7 of the
difference; V and D have no part in it. -/
def compare (r m : Byte) (s : State) : State :=
  ((s.setFlag .c (decide (m.toNat ≤ r.toNat))).setFlag .z (r == m)).setFlag .n (bit7 (r - m))

end Sys2Proof.Machine
end

