-- ==== Sys2Proof/Machine/Ops.lean ====
section
/-! DEFINITION. The named operations over memory, stack and registers that the instruction rules are
written in (00_scope.md R15, R16; 40_sequencer.md R420 to R423), raising a fault (60_exceptions.md
R910), the BRK trap entry and its return (R931, R932), instruction fetch, and reset. An operation that
may raise takes the rest of the pseudocode as an argument: the rest runs only when nothing was
raised. -/

namespace Sys2Proof.Machine

/-- What a meaning answers. -/
abbrev Result := Host.Outcome State Fault Refusal

/-- The rest of an instruction's pseudocode, run on the state so far. -/
abbrev Rest := State → Result

/-- `zext_16(v)` (00_scope.md R13). -/
def zext16 (v : Byte) : Addr := v.setWidth 16

/-- `sext_16(v)` (00_scope.md R13). -/
def sext16 (v : Byte) : Addr := v.signExtend 16

/-- The byte an address holds: the list's, or what an unlisted address reads as. -/
def Memory.read : Memory → Addr → Byte
  | [], _ => Memory.unlisted
  | (k, v) :: rest, addr => if k = addr.toNat then v else Memory.read rest addr

/-- The memory with one byte replaced, in canonical form: a byte equal to what an unlisted address
reads as is not listed. -/
def Memory.write : Memory → Addr → Byte → Memory
  | [], addr, v => if v = Memory.unlisted then [] else [(addr.toNat, v)]
  | (k, w) :: rest, addr, v =>
    if addr.toNat < k then
      if v = Memory.unlisted then (k, w) :: rest else (addr.toNat, v) :: (k, w) :: rest
    else if addr.toNat = k then
      if v = Memory.unlisted then rest else (k, v) :: rest
    else (k, w) :: Memory.write rest addr v

/-- Host loading of consecutive bytes from an address on, wrapping modulo 2^16 (60_exceptions.md R960:
the host writes any byte, and no write of the host's is checked against `ROM_START`). -/
def Memory.load : Memory → Addr → List Byte → Memory
  | m, _, [] => m
  | m, addr, v :: rest => Memory.load (m.write addr v) (addr + 1) rest

/-- `MemRead(addr, 1)` (00_scope.md R15, 20_memory.md R201): total, and it changes nothing. -/
def memRead (s : State) (addr : Addr) : Byte := s.mem.read addr

/-- `MemRead16(addr)` (00_scope.md R15): little-endian, the second address wrapping modulo 2^16. -/
def memRead16 (s : State) (addr : Addr) : Addr := wordOf (memRead s (addr + 1)) (memRead s addr)

/-- `raise F` (60_exceptions.md R910): record the fault. The instruction ends here; what it did before
remains (R913). -/
def raise (f : Fault) (s : State) : State := s.setFault (some f)

/-- An address at or above `ROM_START` (20_memory.md R202, R203). -/
def inRom (s : State) (addr : Addr) : Bool := decide (s.cfg.romStart.toNat ≤ addr.toNat)

/-- `MemWrite(addr, 1, v)` (20_memory.md R202): into ROM nothing is written and the fault is raised. -/
def memWrite (addr : Addr) (v : Byte) (s : State) (rest : Rest) : Result :=
  if inRom s addr then .next (raise (.romViolation addr) s)
  else rest (s.setMem (s.mem.write addr v))

/-- The address of the stack byte that S names (10_state.md R105). -/
def stackAddr (sp : Byte) : Addr := 0x0100#16 ||| zext16 sp

/-- The boundary check of a push (40_sequencer.md R420). -/
def pushOverflows (s : State) : Bool := !s.cfg.stackWrap && s.sp == 0x00#8

/-- The boundary check of a pull (40_sequencer.md R421). -/
def pullUnderflows (s : State) : Bool := !s.cfg.stackWrap && s.sp == 0xFF#8

/-- `Push(v)` (40_sequencer.md R420): check, write at S, then decrement S. -/
def push (v : Byte) (s : State) (rest : Rest) : Result :=
  if pushOverflows s then .next (raise .stackOverflow s)
  else memWrite (stackAddr s.sp) v s fun t => rest (t.setSp (t.sp - 1))

/-- `Pull()` (40_sequencer.md R421): check, increment S, then read at S. -/
def pull (s : State) (rest : Byte → Rest) : Result :=
  if pullUnderflows s then .next (raise .stackUnderflow s)
  else rest (memRead s (stackAddr (s.sp + 1))) (s.setSp (s.sp + 1))

/-- Two pushes of a word, high byte first (47_branch_jump.md R761), so that it lies little-endian on the
stack (20_memory.md R205). -/
def pushWord (w : Addr) (s : State) (rest : Rest) : Result :=
  push (hiByte w) s fun t => push (loByte w) t rest

/-- Two pulls of a word, low byte first (47_branch_jump.md R762). -/
def pullWord (s : State) (rest : Addr → Rest) : Result :=
  pull s fun lo t => pull t fun hi u => rest (wordOf hi lo) u

/-- The address of the BRK vector (00_scope.md R12). -/
def brkVector : Addr := 0xFFFE#16

/-- The address of the reset vector (00_scope.md R12). -/
def resetVector : Addr := 0xFFFC#16

/-- Trap entry (60_exceptions.md R931, 49_control.md R850): push the return address and P with B and U
set, set I, leave D, and take PC from the vector. -/
def enterTrap (ret : Addr) (s : State) : Result :=
  pushWord ret s fun t =>
    push (pushedP t.p) t fun u =>
      let v := u.setFlag .i true
      .next (v.setPc (memRead16 v brkVector))

/-- Trap return (60_exceptions.md R932, 47_branch_jump.md R763): P in full, then PC with no increment. -/
def returnFromTrap (s : State) : Result :=
  pull s fun p t => pullWord (t.setP p) fun ret u => .next (u.setPc ret)

/-- The three bytes from PC on, at addresses modulo 2^16 (30_encoding.md R300, 41_addressing.md R465).
The Decoder looks at as many of them as the opcode's format has. -/
def fetchBytes (s : State) : List Byte :=
  [memRead s s.pc, memRead s (s.pc + 1), memRead s (s.pc + 2)]

/-- What the Decoder makes of the bytes at PC: an instruction, or `none` for an illegal opcode. -/
def fetch (s : State) : Option Instr :=
  match decode (fetchBytes s) with
  | .ok (i, _) => some i
  | .error _ => none

/-- PC moved past an instruction's bytes, to `PC_next` (40_sequencer.md R402; modulo 2^16, 10_state.md
R107). -/
def advance (i : Instr) (s : State) : State := s.setPc (s.pc + BitVec.ofNat 16 i.length)

/-- The step on an illegal opcode (60_exceptions.md R912): the registers and flags are those before the
step, PC at the opcode, and the fault is recorded. Nothing was changed before decoding, so the state
before the step is the snapshot of 10_state.md R117 (DEDUCED, log 11). -/
def takeIllegalOpcode (s : State) : State := raise (.illegalOpcode (memRead s s.pc) s.pc) s

/-- The PC a reset loads (70_reset_and_hazards.md R1000): the override, else `RESET_PC`, else the reset
vector. -/
def resetPcOf (cfg : Config) (override : Option Addr) (s : State) : Addr :=
  match override, cfg.resetPc with
  | some pc, _ => pc
  | none, some pc => pc
  | none, none => memRead16 s resetVector

/-- `reset(override)` with the configuration it supplies (70_reset_and_hazards.md R1000, R1003): PC, S, P
and fault are loaded; A, X, Y and memory are unchanged. -/
def resetWith (cfg : Config) (override : Option Addr) (s : State) : State :=
  { s with
    pc := resetPcOf cfg override s
    sp := cfg.resetSp
    p := cfg.resetP
    fault := none
    cfg := cfg }

/-- The numeric code of a fault (60_exceptions.md R900). -/
def Fault.code : Fault → Nat
  | .illegalOpcode _ _ => 0
  | .stackOverflow => 1
  | .stackUnderflow => 2
  | .romViolation _ => 3

end Sys2Proof.Machine
end

