-- ==== Sys2Proof/Machine/Operands.lean ====
section
/-! DEFINITION. The addressing-mode resolver (41_addressing.md R450 to R465). The operand kinds of
40_sequencer.md R410 are types here: a memory operand resolves to an effective address, a `Source` is
what `Load` accepts (an immediate or a memory operand), a `Target` is what `Old` and `Put` accept (the
accumulator or a memory operand) (R411). Resolving reads memory and changes nothing. -/

namespace Sys2Proof.Machine

/-- The memory operands: the eight addressing modes that yield the address of a data byte, with their
operand bytes (30_encoding.md R302). -/
inductive MemOperand where
  | zeroPage (z : Byte)
  | zeroPageX (z : Byte)
  | zeroPageY (z : Byte)
  | absolute (w : Addr)
  | absoluteX (w : Addr)
  | absoluteY (w : Addr)
  | indexedIndirectX (z : Byte)
  | indirectIndexedY (z : Byte)
  deriving DecidableEq, Repr

/-- The word a zero-page pointer names, its high byte read within page 0 too (41_addressing.md R461,
R462). -/
def zeroPagePointer (p : Byte) (s : State) : Addr :=
  wordOf (memRead s (zext16 (p + 1))) (memRead s (zext16 p))

/-- The effective address of a memory operand (41_addressing.md R454 to R459, R461, R462). -/
def effAddr : MemOperand → State → Addr
  | .zeroPage z, _ => zext16 z
  | .zeroPageX z, s => zext16 (z + s.x)
  | .zeroPageY z, s => zext16 (z + s.y)
  | .absolute w, _ => w
  | .absoluteX w, s => w + zext16 s.x
  | .absoluteY w, s => w + zext16 s.y
  | .indexedIndirectX z, s => zeroPagePointer (z + s.x) s
  | .indirectIndexedY z, s => zeroPagePointer z s + zext16 s.y

/-- What a reading instruction takes: an immediate (41_addressing.md R453) or a memory byte. -/
inductive Source where
  | imm (v : Byte)
  | mem (m : MemOperand)
  deriving DecidableEq, Repr

/-- `Load(opnd)` (40_sequencer.md R411). -/
def load : Source → State → Byte
  | .imm v, _ => v
  | .mem m, s => memRead s (effAddr m s)

/-- What a shift or read-modify-write works on: the accumulator (41_addressing.md R452) or a memory
byte. -/
inductive Target where
  | acc
  | mem (m : MemOperand)
  deriving DecidableEq, Repr

/-- `Old(opnd)` (40_sequencer.md R411). -/
def old : Target → State → Byte
  | .acc, s => s.a
  | .mem m, s => memRead s (effAddr m s)

/-- `Put(opnd, r)` (40_sequencer.md R411), then the rest of the rule. -/
def put : Target → Byte → State → Rest → Result
  | .acc, r, s, rest => rest (s.setA r)
  | .mem m, r, s, rest => memWrite (effAddr m s) r s rest

/-- The second address of a JMP-indirect pointer: the next one within the pointer's page
(41_addressing.md R460, the page-wrap quirk). -/
def nextInPage (ptr : Addr) : Addr := (ptr &&& 0xFF00#16) ||| ((ptr + 1) &&& 0x00FF#16)

/-- The target of JMP indirect (41_addressing.md R460). -/
def indirectTarget (ptr : Addr) (s : State) : Addr :=
  wordOf (memRead s (nextInPage ptr)) (memRead s ptr)

/-- The target of a taken branch from `PC_next` (41_addressing.md R463, 47_branch_jump.md R750). -/
def branchTarget (d : Byte) (s : State) : Addr := s.pc + sext16 d

end Sys2Proof.Machine
end

