-- ==== Sys2Proof/Machine/Arithmetic.lean ====
section
/-! DEFINITION. ADC and SBC in binary and decimal mode (43_arithmetic.md R554 to R558; the adders of R550 to
R553 are in Flags.lean). Each rule body is written once over its operand; each row of the opcode table
is one meaning of its own over it. PC is `PC_next` on entry (40_sequencer.md R426). -/

namespace Sys2Proof.Machine

/-- The inputs for which 43_arithmetic.md R554 lets A and C be any value: decimal mode with an operand
that is not valid BCD, under `INVALID_BCD = AnyValue`. -/
def decimalIsFree (m : Byte) (s : State) : Bool :=
  s.flag .d && s.cfg.invalidBcd == .anyValue && !(validBcd s.a && validBcd m)

/-- The state with the free value drawn counted (DESIGN CHOICE, log 5), where one was drawn. -/
def countDraw (m : Byte) (s : State) : State :=
  if decimalIsFree m s then s.setDraws (s.draws + 1) else s

/-- What ADC writes to A and C (R557): the binary sum, the decimal sum when D is set, or the free
values of R554. -/
def adcValue (m : Byte) (s : State) : Byte × Bool :=
  if decimalIsFree m s then (Config.freeDecimalA s.draws, Config.freeDecimalC s.draws)
  else if s.flag .d then
    let d := decAdd s.a m (s.flag .c)
    (d.r, d.carry)
  else
    let b := binAdd s.a m (s.flag .c)
    (b.r, b.carry)

/-- What ADC writes to N and V (R555): the binary values, or in decimal mode under `NmosIntermediate`
those of the intermediate of R552. -/
def adcSigns (m : Byte) (s : State) : Bool × Bool :=
  if s.flag .d && s.cfg.decimalFlags == .nmosIntermediate then
    let t := (decAdd s.a m (s.flag .c)).t
    (bit7 t, addOverflow s.a m t)
  else
    let b := binAdd s.a m (s.flag .c)
    (bit7 b.r, b.overflow)

/-- P after ADC or SBC: C, Z, N and V written, every other bit kept (R557, R558). -/
def arithmeticP (carry zero negative overflow : Bool) (p : Byte) : Byte :=
  putFlag (putFlag (putFlag (putFlag p .c carry) .z zero) .n negative) .v overflow

/-- ADC (R557). Z is always that of the binary sum (R555). -/
def ruleAdc (src : Source) (s : State) : Result :=
  let m := load src s
  let value := adcValue m s
  let signs := adcSigns m s
  let zero := (binAdd s.a m (s.flag .c)).r == 0x00#8
  .next (((countDraw m s).setA value.1).setP (arithmeticP value.2 zero signs.1 signs.2 s.p))

/-- ADC # (opcode 0x69, R557). -/
def execAdcImm (v : Byte) (s : State) : Result := ruleAdc (.imm v) s

/-- ADC zp (opcode 0x65, R557). -/
def execAdcZp (z : Byte) (s : State) : Result := ruleAdc (.mem (.zeroPage z)) s

/-- ADC zp,X (opcode 0x75, R557). -/
def execAdcZpX (z : Byte) (s : State) : Result := ruleAdc (.mem (.zeroPageX z)) s

/-- ADC abs (opcode 0x6D, R557). -/
def execAdcAbs (w : Addr) (s : State) : Result := ruleAdc (.mem (.absolute w)) s

/-- ADC abs,X (opcode 0x7D, R557). -/
def execAdcAbsX (w : Addr) (s : State) : Result := ruleAdc (.mem (.absoluteX w)) s

/-- ADC abs,Y (opcode 0x79, R557). -/
def execAdcAbsY (w : Addr) (s : State) : Result := ruleAdc (.mem (.absoluteY w)) s

/-- ADC (zp,X) (opcode 0x61, R557). -/
def execAdcIndX (z : Byte) (s : State) : Result := ruleAdc (.mem (.indexedIndirectX z)) s

/-- ADC (zp),Y (opcode 0x71, R557). -/
def execAdcIndY (z : Byte) (s : State) : Result := ruleAdc (.mem (.indirectIndexedY z)) s

/-- What SBC writes to A and C (R558): the binary difference, the decimal difference when D is set, or
the free values of R554 (DEDUCED, log 8). -/
def sbcValue (m : Byte) (s : State) : Byte × Bool :=
  if decimalIsFree m s then (Config.freeDecimalA s.draws, Config.freeDecimalC s.draws)
  else if s.flag .d then decSub s.a m (s.flag .c)
  else
    let b := binSub s.a m (s.flag .c)
    (b.r, b.carry)

/-- SBC (R558). Z, N and V are always those of the binary difference (R555). -/
def ruleSbc (src : Source) (s : State) : Result :=
  let m := load src s
  let value := sbcValue m s
  let b := binSub s.a m (s.flag .c)
  .next (((countDraw m s).setA value.1).setP
    (arithmeticP value.2 (b.r == 0x00#8) (bit7 b.r) b.overflow s.p))

/-- SBC # (opcode 0xE9, R558). -/
def execSbcImm (v : Byte) (s : State) : Result := ruleSbc (.imm v) s

/-- SBC zp (opcode 0xE5, R558). -/
def execSbcZp (z : Byte) (s : State) : Result := ruleSbc (.mem (.zeroPage z)) s

/-- SBC zp,X (opcode 0xF5, R558). -/
def execSbcZpX (z : Byte) (s : State) : Result := ruleSbc (.mem (.zeroPageX z)) s

/-- SBC abs (opcode 0xED, R558). -/
def execSbcAbs (w : Addr) (s : State) : Result := ruleSbc (.mem (.absolute w)) s

/-- SBC abs,X (opcode 0xFD, R558). -/
def execSbcAbsX (w : Addr) (s : State) : Result := ruleSbc (.mem (.absoluteX w)) s

/-- SBC abs,Y (opcode 0xF9, R558). -/
def execSbcAbsY (w : Addr) (s : State) : Result := ruleSbc (.mem (.absoluteY w)) s

/-- SBC (zp,X) (opcode 0xE1, R558). -/
def execSbcIndX (z : Byte) (s : State) : Result := ruleSbc (.mem (.indexedIndirectX z)) s

/-- SBC (zp),Y (opcode 0xF1, R558). -/
def execSbcIndY (z : Byte) (s : State) : Result := ruleSbc (.mem (.indirectIndexedY z)) s

end Sys2Proof.Machine
end

