-- ==== Sys2Proof/Machine/BranchJump.lean ====
section
/-! DEFINITION. Branches, jumps, calls and returns (47_branch_jump.md R750 to R763). PC is `PC_next`
on entry (40_sequencer.md R426). -/

namespace Sys2Proof.Machine

/-- `Branch(cond)` (R750): PC moves to the target when the condition holds, else stays `PC_next`. -/
def branch (cond : Bool) (d : Byte) (s : State) : Result :=
  .next (if cond then s.setPc (branchTarget d s) else s)

/-- BPL (R751): `Branch(P.N = 0)`. -/
def execBpl (d : Byte) (s : State) : Result := branch (!s.flag .n) d s

/-- BMI (R752): `Branch(P.N = 1)`. -/
def execBmi (d : Byte) (s : State) : Result := branch (s.flag .n) d s

/-- BVC (R753): `Branch(P.V = 0)`. -/
def execBvc (d : Byte) (s : State) : Result := branch (!s.flag .v) d s

/-- BVS (R754): `Branch(P.V = 1)`. -/
def execBvs (d : Byte) (s : State) : Result := branch (s.flag .v) d s

/-- BCC (R755): `Branch(P.C = 0)`. -/
def execBcc (d : Byte) (s : State) : Result := branch (!s.flag .c) d s

/-- BCS (R756): `Branch(P.C = 1)`. -/
def execBcs (d : Byte) (s : State) : Result := branch (s.flag .c) d s

/-- BNE (R757): `Branch(P.Z = 0)`. -/
def execBne (d : Byte) (s : State) : Result := branch (!s.flag .z) d s

/-- BEQ (R758): `Branch(P.Z = 1)`. -/
def execBeq (d : Byte) (s : State) : Result := branch (s.flag .z) d s

/-- JMP (R760): `PC <- t`. -/
def ruleJmp (t : Addr) (s : State) : Result := .next (s.setPc t)

/-- JMP abs (opcode 0x4C, R760). -/
def execJmpAbs (w : Addr) (s : State) : Result := ruleJmp w s

/-- JMP (abs) (opcode 0x6C, R760). -/
def execJmpInd (w : Addr) (s : State) : Result := ruleJmp (indirectTarget w s) s

/-- JSR (R761): push `at + 2 = PC_next - 1`, high byte first, then jump. -/
def execJsr (w : Addr) (s : State) : Result := pushWord (s.pc - 1) s fun t => .next (t.setPc w)

/-- RTS (R762): pull low then high, and PC is one past the pulled address. -/
def execRts (s : State) : Result := pullWord s fun ret t => .next (t.setPc (ret + 1))

/-- RTI (R763): the return from the BRK trap. -/
def execRti (s : State) : Result := returnFromTrap s

end Sys2Proof.Machine
end

