-- ==== Sys2Proof/Machine/CompareIncDec.lean ====
section
/-! DEFINITION. Compare, increment and decrement (46_compare_incdec.md R700 to R709; `Compare` is in
Flags.lean). D has no effect on any of them (43_arithmetic.md R556). Each rule body is written once over its operand; each row of the opcode table
is one meaning of its own over it. PC is `PC_next` on entry (40_sequencer.md R426). -/

namespace Sys2Proof.Machine

/-- CMP (R701): `M <- Load(opnd); Compare(A, M)`. -/
def ruleCmp (src : Source) (s : State) : Result := .next (compare s.a (load src s) s)

/-- CMP # (opcode 0xC9, R701). -/
def execCmpImm (v : Byte) (s : State) : Result := ruleCmp (.imm v) s

/-- CMP zp (opcode 0xC5, R701). -/
def execCmpZp (z : Byte) (s : State) : Result := ruleCmp (.mem (.zeroPage z)) s

/-- CMP zp,X (opcode 0xD5, R701). -/
def execCmpZpX (z : Byte) (s : State) : Result := ruleCmp (.mem (.zeroPageX z)) s

/-- CMP abs (opcode 0xCD, R701). -/
def execCmpAbs (w : Addr) (s : State) : Result := ruleCmp (.mem (.absolute w)) s

/-- CMP abs,X (opcode 0xDD, R701). -/
def execCmpAbsX (w : Addr) (s : State) : Result := ruleCmp (.mem (.absoluteX w)) s

/-- CMP abs,Y (opcode 0xD9, R701). -/
def execCmpAbsY (w : Addr) (s : State) : Result := ruleCmp (.mem (.absoluteY w)) s

/-- CMP (zp,X) (opcode 0xC1, R701). -/
def execCmpIndX (z : Byte) (s : State) : Result := ruleCmp (.mem (.indexedIndirectX z)) s

/-- CMP (zp),Y (opcode 0xD1, R701). -/
def execCmpIndY (z : Byte) (s : State) : Result := ruleCmp (.mem (.indirectIndexedY z)) s

/-- CPX (R702): `M <- Load(opnd); Compare(X, M)`. -/
def ruleCpx (src : Source) (s : State) : Result := .next (compare s.x (load src s) s)

/-- CPX # (opcode 0xE0, R702). -/
def execCpxImm (v : Byte) (s : State) : Result := ruleCpx (.imm v) s

/-- CPX zp (opcode 0xE4, R702). -/
def execCpxZp (z : Byte) (s : State) : Result := ruleCpx (.mem (.zeroPage z)) s

/-- CPX abs (opcode 0xEC, R702). -/
def execCpxAbs (w : Addr) (s : State) : Result := ruleCpx (.mem (.absolute w)) s

/-- CPY (R703): `M <- Load(opnd); Compare(Y, M)`. -/
def ruleCpy (src : Source) (s : State) : Result := .next (compare s.y (load src s) s)

/-- CPY # (opcode 0xC0, R703). -/
def execCpyImm (v : Byte) (s : State) : Result := ruleCpy (.imm v) s

/-- CPY zp (opcode 0xC4, R703). -/
def execCpyZp (z : Byte) (s : State) : Result := ruleCpy (.mem (.zeroPage z)) s

/-- CPY abs (opcode 0xCC, R703). -/
def execCpyAbs (w : Addr) (s : State) : Result := ruleCpy (.mem (.absolute w)) s

/-- A read-modify-write of one memory byte with N and Z from the result, set only after the write
(R704, R705). -/
def modify (f : Byte → Byte) (opnd : MemOperand) (s : State) : Result :=
  let ea := effAddr opnd s
  let r := f (memRead s ea)
  memWrite ea r s fun t => .next (setNZ r t)

/-- INC (R704). -/
def ruleInc (opnd : MemOperand) (s : State) : Result := modify (· + 1) opnd s

/-- INC zp (opcode 0xE6, R704). -/
def execIncZp (z : Byte) (s : State) : Result := ruleInc (.zeroPage z) s

/-- INC zp,X (opcode 0xF6, R704). -/
def execIncZpX (z : Byte) (s : State) : Result := ruleInc (.zeroPageX z) s

/-- INC abs (opcode 0xEE, R704). -/
def execIncAbs (w : Addr) (s : State) : Result := ruleInc (.absolute w) s

/-- INC abs,X (opcode 0xFE, R704). -/
def execIncAbsX (w : Addr) (s : State) : Result := ruleInc (.absoluteX w) s

/-- DEC (R705). -/
def ruleDec (opnd : MemOperand) (s : State) : Result := modify (· - 1) opnd s

/-- DEC zp (opcode 0xC6, R705). -/
def execDecZp (z : Byte) (s : State) : Result := ruleDec (.zeroPage z) s

/-- DEC zp,X (opcode 0xD6, R705). -/
def execDecZpX (z : Byte) (s : State) : Result := ruleDec (.zeroPageX z) s

/-- DEC abs (opcode 0xCE, R705). -/
def execDecAbs (w : Addr) (s : State) : Result := ruleDec (.absolute w) s

/-- DEC abs,X (opcode 0xDE, R705). -/
def execDecAbsX (w : Addr) (s : State) : Result := ruleDec (.absoluteX w) s

/-- INX (R706): `X <- X + 1 (mod 256); SetNZ(X)`. -/
def execInx (s : State) : Result := .next (setNZ (s.x + 1) (s.setX (s.x + 1)))

/-- DEX (R707): `X <- X - 1 (mod 256); SetNZ(X)`. -/
def execDex (s : State) : Result := .next (setNZ (s.x - 1) (s.setX (s.x - 1)))

/-- INY (R708): `Y <- Y + 1 (mod 256); SetNZ(Y)`. -/
def execIny (s : State) : Result := .next (setNZ (s.y + 1) (s.setY (s.y + 1)))

/-- DEY (R709): `Y <- Y - 1 (mod 256); SetNZ(Y)`. -/
def execDey (s : State) : Result := .next (setNZ (s.y - 1) (s.setY (s.y - 1)))

end Sys2Proof.Machine
end

