-- ==== Sys2Proof/Machine/Control.lean ====
section
/-! DEFINITION. Control (49_control.md R850, R851). PC is `PC_next` on entry (40_sequencer.md R426). -/

namespace Sys2Proof.Machine

/-- BRK (R850): the trap entry with the return address `at + 2 = PC_next + 1`. -/
def execBrk (s : State) : Result := enterTrap (s.pc + 1) s

/-- NOP (R851): nothing beyond the advance of PC that the step has made. -/
def execNop (s : State) : Result := .next s

end Sys2Proof.Machine
end

