-- ==== Sys2Proof/Machine/LoadStore.lean ====
section
/-! DEFINITION. Loads, stores and register transfers (42_load_store_transfer.md R500 to R509).
Each rule body is written once over its operand; each row of the opcode table
is one meaning of its own over it. PC is `PC_next` on entry (40_sequencer.md R426). -/

namespace Sys2Proof.Machine

/-- LDA (R500): `v <- Load(opnd); A <- v; SetNZ(v)`. -/
def ruleLda (src : Source) (s : State) : Result :=
  let v := load src s
  .next (setNZ v (s.setA v))

/-- LDA # (opcode 0xA9, R500). -/
def execLdaImm (v : Byte) (s : State) : Result := ruleLda (.imm v) s

/-- LDA zp (opcode 0xA5, R500). -/
def execLdaZp (z : Byte) (s : State) : Result := ruleLda (.mem (.zeroPage z)) s

/-- LDA zp,X (opcode 0xB5, R500). -/
def execLdaZpX (z : Byte) (s : State) : Result := ruleLda (.mem (.zeroPageX z)) s

/-- LDA abs (opcode 0xAD, R500). -/
def execLdaAbs (w : Addr) (s : State) : Result := ruleLda (.mem (.absolute w)) s

/-- LDA abs,X (opcode 0xBD, R500). -/
def execLdaAbsX (w : Addr) (s : State) : Result := ruleLda (.mem (.absoluteX w)) s

/-- LDA abs,Y (opcode 0xB9, R500). -/
def execLdaAbsY (w : Addr) (s : State) : Result := ruleLda (.mem (.absoluteY w)) s

/-- LDA (zp,X) (opcode 0xA1, R500). -/
def execLdaIndX (z : Byte) (s : State) : Result := ruleLda (.mem (.indexedIndirectX z)) s

/-- LDA (zp),Y (opcode 0xB1, R500). -/
def execLdaIndY (z : Byte) (s : State) : Result := ruleLda (.mem (.indirectIndexedY z)) s

/-- LDX (R501): `v <- Load(opnd); X <- v; SetNZ(v)`. -/
def ruleLdx (src : Source) (s : State) : Result :=
  let v := load src s
  .next (setNZ v (s.setX v))

/-- LDX # (opcode 0xA2, R501). -/
def execLdxImm (v : Byte) (s : State) : Result := ruleLdx (.imm v) s

/-- LDX zp (opcode 0xA6, R501). -/
def execLdxZp (z : Byte) (s : State) : Result := ruleLdx (.mem (.zeroPage z)) s

/-- LDX zp,Y (opcode 0xB6, R501). -/
def execLdxZpY (z : Byte) (s : State) : Result := ruleLdx (.mem (.zeroPageY z)) s

/-- LDX abs (opcode 0xAE, R501). -/
def execLdxAbs (w : Addr) (s : State) : Result := ruleLdx (.mem (.absolute w)) s

/-- LDX abs,Y (opcode 0xBE, R501). -/
def execLdxAbsY (w : Addr) (s : State) : Result := ruleLdx (.mem (.absoluteY w)) s

/-- LDY (R502): `v <- Load(opnd); Y <- v; SetNZ(v)`. -/
def ruleLdy (src : Source) (s : State) : Result :=
  let v := load src s
  .next (setNZ v (s.setY v))

/-- LDY # (opcode 0xA0, R502). -/
def execLdyImm (v : Byte) (s : State) : Result := ruleLdy (.imm v) s

/-- LDY zp (opcode 0xA4, R502). -/
def execLdyZp (z : Byte) (s : State) : Result := ruleLdy (.mem (.zeroPage z)) s

/-- LDY zp,X (opcode 0xB4, R502). -/
def execLdyZpX (z : Byte) (s : State) : Result := ruleLdy (.mem (.zeroPageX z)) s

/-- LDY abs (opcode 0xAC, R502). -/
def execLdyAbs (w : Addr) (s : State) : Result := ruleLdy (.mem (.absolute w)) s

/-- LDY abs,X (opcode 0xBC, R502). -/
def execLdyAbsX (w : Addr) (s : State) : Result := ruleLdy (.mem (.absoluteX w)) s

/-- STA (R503): `MemWrite(ea, 1, A)`. -/
def ruleSta (opnd : MemOperand) (s : State) : Result :=
  memWrite (effAddr opnd s) s.a s .next

/-- STA zp (opcode 0x85, R503). -/
def execStaZp (z : Byte) (s : State) : Result := ruleSta (.zeroPage z) s

/-- STA zp,X (opcode 0x95, R503). -/
def execStaZpX (z : Byte) (s : State) : Result := ruleSta (.zeroPageX z) s

/-- STA abs (opcode 0x8D, R503). -/
def execStaAbs (w : Addr) (s : State) : Result := ruleSta (.absolute w) s

/-- STA abs,X (opcode 0x9D, R503). -/
def execStaAbsX (w : Addr) (s : State) : Result := ruleSta (.absoluteX w) s

/-- STA abs,Y (opcode 0x99, R503). -/
def execStaAbsY (w : Addr) (s : State) : Result := ruleSta (.absoluteY w) s

/-- STA (zp,X) (opcode 0x81, R503). -/
def execStaIndX (z : Byte) (s : State) : Result := ruleSta (.indexedIndirectX z) s

/-- STA (zp),Y (opcode 0x91, R503). -/
def execStaIndY (z : Byte) (s : State) : Result := ruleSta (.indirectIndexedY z) s

/-- STX (R504): `MemWrite(ea, 1, X)`. -/
def ruleStx (opnd : MemOperand) (s : State) : Result :=
  memWrite (effAddr opnd s) s.x s .next

/-- STX zp (opcode 0x86, R504). -/
def execStxZp (z : Byte) (s : State) : Result := ruleStx (.zeroPage z) s

/-- STX zp,Y (opcode 0x96, R504). -/
def execStxZpY (z : Byte) (s : State) : Result := ruleStx (.zeroPageY z) s

/-- STX abs (opcode 0x8E, R504). -/
def execStxAbs (w : Addr) (s : State) : Result := ruleStx (.absolute w) s

/-- STY (R505): `MemWrite(ea, 1, Y)`. -/
def ruleSty (opnd : MemOperand) (s : State) : Result :=
  memWrite (effAddr opnd s) s.y s .next

/-- STY zp (opcode 0x84, R505). -/
def execStyZp (z : Byte) (s : State) : Result := ruleSty (.zeroPage z) s

/-- STY zp,X (opcode 0x94, R505). -/
def execStyZpX (z : Byte) (s : State) : Result := ruleSty (.zeroPageX z) s

/-- STY abs (opcode 0x8C, R505). -/
def execStyAbs (w : Addr) (s : State) : Result := ruleSty (.absolute w) s

/-- TAX (R506): `X <- A; SetNZ(X)`. -/
def execTax (s : State) : Result := .next (setNZ s.a (s.setX s.a))

/-- TAY (R507): `Y <- A; SetNZ(Y)`. -/
def execTay (s : State) : Result := .next (setNZ s.a (s.setY s.a))

/-- TXA (R508): `A <- X; SetNZ(A)`. -/
def execTxa (s : State) : Result := .next (setNZ s.x (s.setA s.x))

/-- TYA (R509): `A <- Y; SetNZ(A)`. -/
def execTya (s : State) : Result := .next (setNZ s.y (s.setA s.y))

end Sys2Proof.Machine
end

