-- ==== Sys2Proof/Machine/Logical.lean ====
section
/-! DEFINITION. Logical operations (44_logical.md R600 to R603).
Each rule body is written once over its operand; each row of the opcode table
is one meaning of its own over it. PC is `PC_next` on entry (40_sequencer.md R426). -/

namespace Sys2Proof.Machine

/-- AND (R600). -/
def ruleAnd (src : Source) (s : State) : Result :=
  let r := s.a &&& load src s
  .next (setNZ r (s.setA r))

/-- AND # (opcode 0x29, R600). -/
def execAndImm (v : Byte) (s : State) : Result := ruleAnd (.imm v) s

/-- AND zp (opcode 0x25, R600). -/
def execAndZp (z : Byte) (s : State) : Result := ruleAnd (.mem (.zeroPage z)) s

/-- AND zp,X (opcode 0x35, R600). -/
def execAndZpX (z : Byte) (s : State) : Result := ruleAnd (.mem (.zeroPageX z)) s

/-- AND abs (opcode 0x2D, R600). -/
def execAndAbs (w : Addr) (s : State) : Result := ruleAnd (.mem (.absolute w)) s

/-- AND abs,X (opcode 0x3D, R600). -/
def execAndAbsX (w : Addr) (s : State) : Result := ruleAnd (.mem (.absoluteX w)) s

/-- AND abs,Y (opcode 0x39, R600). -/
def execAndAbsY (w : Addr) (s : State) : Result := ruleAnd (.mem (.absoluteY w)) s

/-- AND (zp,X) (opcode 0x21, R600). -/
def execAndIndX (z : Byte) (s : State) : Result := ruleAnd (.mem (.indexedIndirectX z)) s

/-- AND (zp),Y (opcode 0x31, R600). -/
def execAndIndY (z : Byte) (s : State) : Result := ruleAnd (.mem (.indirectIndexedY z)) s

/-- ORA (R601). -/
def ruleOra (src : Source) (s : State) : Result :=
  let r := s.a ||| load src s
  .next (setNZ r (s.setA r))

/-- ORA # (opcode 0x09, R601). -/
def execOraImm (v : Byte) (s : State) : Result := ruleOra (.imm v) s

/-- ORA zp (opcode 0x05, R601). -/
def execOraZp (z : Byte) (s : State) : Result := ruleOra (.mem (.zeroPage z)) s

/-- ORA zp,X (opcode 0x15, R601). -/
def execOraZpX (z : Byte) (s : State) : Result := ruleOra (.mem (.zeroPageX z)) s

/-- ORA abs (opcode 0x0D, R601). -/
def execOraAbs (w : Addr) (s : State) : Result := ruleOra (.mem (.absolute w)) s

/-- ORA abs,X (opcode 0x1D, R601). -/
def execOraAbsX (w : Addr) (s : State) : Result := ruleOra (.mem (.absoluteX w)) s

/-- ORA abs,Y (opcode 0x19, R601). -/
def execOraAbsY (w : Addr) (s : State) : Result := ruleOra (.mem (.absoluteY w)) s

/-- ORA (zp,X) (opcode 0x01, R601). -/
def execOraIndX (z : Byte) (s : State) : Result := ruleOra (.mem (.indexedIndirectX z)) s

/-- ORA (zp),Y (opcode 0x11, R601). -/
def execOraIndY (z : Byte) (s : State) : Result := ruleOra (.mem (.indirectIndexedY z)) s

/-- EOR (R602). -/
def ruleEor (src : Source) (s : State) : Result :=
  let r := s.a ^^^ load src s
  .next (setNZ r (s.setA r))

/-- EOR # (opcode 0x49, R602). -/
def execEorImm (v : Byte) (s : State) : Result := ruleEor (.imm v) s

/-- EOR zp (opcode 0x45, R602). -/
def execEorZp (z : Byte) (s : State) : Result := ruleEor (.mem (.zeroPage z)) s

/-- EOR zp,X (opcode 0x55, R602). -/
def execEorZpX (z : Byte) (s : State) : Result := ruleEor (.mem (.zeroPageX z)) s

/-- EOR abs (opcode 0x4D, R602). -/
def execEorAbs (w : Addr) (s : State) : Result := ruleEor (.mem (.absolute w)) s

/-- EOR abs,X (opcode 0x5D, R602). -/
def execEorAbsX (w : Addr) (s : State) : Result := ruleEor (.mem (.absoluteX w)) s

/-- EOR abs,Y (opcode 0x59, R602). -/
def execEorAbsY (w : Addr) (s : State) : Result := ruleEor (.mem (.absoluteY w)) s

/-- EOR (zp,X) (opcode 0x41, R602). -/
def execEorIndX (z : Byte) (s : State) : Result := ruleEor (.mem (.indexedIndirectX z)) s

/-- EOR (zp),Y (opcode 0x51, R602). -/
def execEorIndY (z : Byte) (s : State) : Result := ruleEor (.mem (.indirectIndexedY z)) s

/-- BIT (R603): Z from `A & M`, N and V from bits 7 and 6 of the operand; A is not modified. -/
def ruleBit (opnd : MemOperand) (s : State) : Result :=
  let m := load (.mem opnd) s
  .next (((s.setFlag .z (s.a &&& m == 0x00#8)).setFlag .n (bit7 m)).setFlag .v (m.getLsbD 6))

/-- BIT zp (opcode 0x24, R603). -/
def execBitZp (z : Byte) (s : State) : Result := ruleBit (.zeroPage z) s

/-- BIT abs (opcode 0x2C, R603). -/
def execBitAbs (w : Addr) (s : State) : Result := ruleBit (.absolute w) s

end Sys2Proof.Machine
end

