-- ==== Sys2Proof/Machine/ShiftRotate.lean ====
section
/-! DEFINITION. Shifts and rotates (45_shift_rotate.md R650 to R654).
Each rule body is written once over its operand; each row of the opcode table
is one meaning of its own over it. PC is `PC_next` on entry (40_sequencer.md R426). -/

namespace Sys2Proof.Machine

/-- The order of effects of a shift or rotate (R650): one read, one write, and the flags only after the
write. `f` is the instruction's function of the operand and C, `out` the bit shifted out. -/
def shift (f : Byte → Bool → Byte) (out : Byte → Bool) (tgt : Target) (s : State) : Result :=
  let v := old tgt s
  let r := f v (s.flag .c)
  put tgt r s fun t => .next (setNZ r (t.setFlag .c (out v)))

/-- `nat(C)` as a byte. -/
def carryByte (c : Bool) : Byte := if c then 0x01#8 else 0x00#8

/-- ASL (R651). -/
def ruleAsl (tgt : Target) (s : State) : Result := shift (fun v _ => v <<< 1) bit7 tgt s

/-- ASL A (opcode 0x0A, R651). -/
def execAslAcc (s : State) : Result := ruleAsl .acc s

/-- ASL zp (opcode 0x06, R651). -/
def execAslZp (z : Byte) (s : State) : Result := ruleAsl (.mem (.zeroPage z)) s

/-- ASL zp,X (opcode 0x16, R651). -/
def execAslZpX (z : Byte) (s : State) : Result := ruleAsl (.mem (.zeroPageX z)) s

/-- ASL abs (opcode 0x0E, R651). -/
def execAslAbs (w : Addr) (s : State) : Result := ruleAsl (.mem (.absolute w)) s

/-- ASL abs,X (opcode 0x1E, R651). -/
def execAslAbsX (w : Addr) (s : State) : Result := ruleAsl (.mem (.absoluteX w)) s

/-- LSR (R652). -/
def ruleLsr (tgt : Target) (s : State) : Result := shift (fun v _ => v >>> 1) bit0 tgt s

/-- LSR A (opcode 0x4A, R652). -/
def execLsrAcc (s : State) : Result := ruleLsr .acc s

/-- LSR zp (opcode 0x46, R652). -/
def execLsrZp (z : Byte) (s : State) : Result := ruleLsr (.mem (.zeroPage z)) s

/-- LSR zp,X (opcode 0x56, R652). -/
def execLsrZpX (z : Byte) (s : State) : Result := ruleLsr (.mem (.zeroPageX z)) s

/-- LSR abs (opcode 0x4E, R652). -/
def execLsrAbs (w : Addr) (s : State) : Result := ruleLsr (.mem (.absolute w)) s

/-- LSR abs,X (opcode 0x5E, R652). -/
def execLsrAbsX (w : Addr) (s : State) : Result := ruleLsr (.mem (.absoluteX w)) s

/-- ROL (R653). -/
def ruleRol (tgt : Target) (s : State) : Result := shift (fun v c => (v <<< 1) ||| carryByte c) bit7 tgt s

/-- ROL A (opcode 0x2A, R653). -/
def execRolAcc (s : State) : Result := ruleRol .acc s

/-- ROL zp (opcode 0x26, R653). -/
def execRolZp (z : Byte) (s : State) : Result := ruleRol (.mem (.zeroPage z)) s

/-- ROL zp,X (opcode 0x36, R653). -/
def execRolZpX (z : Byte) (s : State) : Result := ruleRol (.mem (.zeroPageX z)) s

/-- ROL abs (opcode 0x2E, R653). -/
def execRolAbs (w : Addr) (s : State) : Result := ruleRol (.mem (.absolute w)) s

/-- ROL abs,X (opcode 0x3E, R653). -/
def execRolAbsX (w : Addr) (s : State) : Result := ruleRol (.mem (.absoluteX w)) s

/-- ROR (R654). -/
def ruleRor (tgt : Target) (s : State) : Result := shift (fun v c => (v >>> 1) ||| (carryByte c <<< 7)) bit0 tgt s

/-- ROR A (opcode 0x6A, R654). -/
def execRorAcc (s : State) : Result := ruleRor .acc s

/-- ROR zp (opcode 0x66, R654). -/
def execRorZp (z : Byte) (s : State) : Result := ruleRor (.mem (.zeroPage z)) s

/-- ROR zp,X (opcode 0x76, R654). -/
def execRorZpX (z : Byte) (s : State) : Result := ruleRor (.mem (.zeroPageX z)) s

/-- ROR abs (opcode 0x6E, R654). -/
def execRorAbs (w : Addr) (s : State) : Result := ruleRor (.mem (.absolute w)) s

/-- ROR abs,X (opcode 0x7E, R654). -/
def execRorAbsX (w : Addr) (s : State) : Result := ruleRor (.mem (.absoluteX w)) s

end Sys2Proof.Machine
end

