-- ==== Sys2Proof/Machine/StackFlag.lean ====
section
/-! DEFINITION. Stack and flag operations (48_stack_flag.md R800 to R816). PC is `PC_next` on entry
(40_sequencer.md R426). -/

namespace Sys2Proof.Machine

/-- PHA (R800): `Push(A)`. -/
def execPha (s : State) : Result := push s.a s .next

/-- PLA (R801): `v <- Pull(); A <- v; SetNZ(v)`. -/
def execPla (s : State) : Result := pull s fun v t => .next (setNZ v (t.setA v))

/-- PHP (R802): `Push(P | 0x30)`; P itself is unchanged. -/
def execPhp (s : State) : Result := push (pushedP s.p) s .next

/-- PLP (R803): `P <- Pull()`, all eight bits. -/
def execPlp (s : State) : Result := pull s fun v t => .next (t.setP v)

/-- TSX (R804): `X <- S; SetNZ(X)`. -/
def execTsx (s : State) : Result := .next (setNZ s.sp (s.setX s.sp))

/-- TXS (R805): `S <- X`; no flag is written and no bound is checked. -/
def execTxs (s : State) : Result := .next (s.setSp s.x)

/-- CLC (R810): `P.C <- 0`. -/
def execClc (s : State) : Result := .next (s.setFlag .c false)

/-- SEC (R811): `P.C <- 1`. -/
def execSec (s : State) : Result := .next (s.setFlag .c true)

/-- CLI (R812): `P.I <- 0`. -/
def execCli (s : State) : Result := .next (s.setFlag .i false)

/-- SEI (R813): `P.I <- 1`. -/
def execSei (s : State) : Result := .next (s.setFlag .i true)

/-- CLD (R814): `P.D <- 0`. -/
def execCld (s : State) : Result := .next (s.setFlag .d false)

/-- SED (R815): `P.D <- 1`. -/
def execSed (s : State) : Result := .next (s.setFlag .d true)

/-- CLV (R816): `P.V <- 0`. -/
def execClv (s : State) : Result := .next (s.setFlag .v false)

end Sys2Proof.Machine
end

