-- ==== Sys2Proof/Machine/Step.lean ====
section
/-! DEFINITION. One step (40_sequencer.md R402) in the host's three outcomes, and the loading of an
instruction where the next step fetches it. -/

namespace Sys2Proof.Machine

/-- One fetch-decode-execute cycle (40_sequencer.md R401, R402). A halted machine re-reports its fault
and changes nothing (60_exceptions.md R911). An illegal opcode is taken as R912 says. Otherwise PC moves
to `PC_next` and the instruction is executed. A step that raises a fault answers the faulted state, with
the fault recorded in it (DESIGN CHOICE, log 1). -/
def step (s : State) : Host.Outcome State Fault Refusal :=
  match s.fault with
  | some f => .fault f
  | none =>
    match fetch s with
    | none => .next (takeIllegalOpcode s)
    | some i => exec i (advance i s)

/-- The state with the instruction of a table word loaded at PC, as a host loads it between steps
(60_exceptions.md R960; no ROM check, 92_eei_decisions.md D25), on a running machine, so that the very
next step runs it (DESIGN CHOICE, log 6). -/
def State.withFetchWord (s : State) (nbits w : Nat) : State :=
  (s.setMem (s.mem.load s.pc (tableBytes nbits w))).setFault none

end Sys2Proof.Machine
end

