-- ==== Sys2Proof/Machine/Accesses.lean ====
section
/-! DEFINITION. The memory accesses of a step, in the order its rules list them (40_sequencer.md R402,
20_memory.md R207, R208): the opcode byte, the operand bytes, the pointer bytes, then the accesses of
the instruction's rule up to the first that faults (R211). Memory is plain storage that nothing but the
step touches, so the order shows in no state; it is stated here for what reads and writes the memory
interface (DESIGN CHOICE, log 7). -/

namespace Sys2Proof.Machine

/-- One call of the memory interface (20_memory.md R200): which address, and whether it is written. -/
inductive Access where
  | read (addr : Addr)
  | write (addr : Addr)
  deriving DecidableEq, Repr

/-- The memory operand of an instruction, for the addressing modes that have one. -/
def memOperandOf : Instr → Option MemOperand
  | .ldaZp z | .ldxZp z | .ldyZp z | .staZp z | .stxZp z | .styZp z | .adcZp z | .sbcZp z
  | .andZp z | .oraZp z | .eorZp z | .bitZp z | .aslZp z | .lsrZp z | .rolZp z | .rorZp z
  | .cmpZp z | .cpxZp z | .cpyZp z | .incZp z | .decZp z => some (.zeroPage z)
  | .ldaZpX z | .ldyZpX z | .staZpX z | .styZpX z | .adcZpX z | .sbcZpX z | .andZpX z | .oraZpX z
  | .eorZpX z | .aslZpX z | .lsrZpX z | .rolZpX z | .rorZpX z | .cmpZpX z | .incZpX z
  | .decZpX z => some (.zeroPageX z)
  | .ldxZpY z | .stxZpY z => some (.zeroPageY z)
  | .ldaAbs w | .ldxAbs w | .ldyAbs w | .staAbs w | .stxAbs w | .styAbs w | .adcAbs w | .sbcAbs w
  | .andAbs w | .oraAbs w | .eorAbs w | .bitAbs w | .aslAbs w | .lsrAbs w | .rolAbs w | .rorAbs w
  | .cmpAbs w | .cpxAbs w | .cpyAbs w | .incAbs w | .decAbs w => some (.absolute w)
  | .ldaAbsX w | .ldyAbsX w | .staAbsX w | .adcAbsX w | .sbcAbsX w | .andAbsX w | .oraAbsX w
  | .eorAbsX w | .aslAbsX w | .lsrAbsX w | .rolAbsX w | .rorAbsX w | .cmpAbsX w | .incAbsX w
  | .decAbsX w => some (.absoluteX w)
  | .ldaAbsY w | .ldxAbsY w | .staAbsY w | .adcAbsY w | .sbcAbsY w | .andAbsY w | .oraAbsY w
  | .eorAbsY w | .cmpAbsY w => some (.absoluteY w)
  | .ldaIndX z | .staIndX z | .adcIndX z | .sbcIndX z | .andIndX z | .oraIndX z | .eorIndX z
  | .cmpIndX z => some (.indexedIndirectX z)
  | .ldaIndY z | .staIndY z | .adcIndY z | .sbcIndY z | .andIndY z | .oraIndY z | .eorIndY z
  | .cmpIndY z => some (.indirectIndexedY z)
  | .ldaImm _ | .ldxImm _ | .ldyImm _ | .tax | .tay | .txa | .tya | .adcImm _ | .sbcImm _
  | .andImm _ | .oraImm _ | .eorImm _ | .aslAcc | .lsrAcc | .rolAcc | .rorAcc | .cmpImm _
  | .cpxImm _ | .cpyImm _ | .inx | .dex | .iny | .dey | .bpl _ | .bmi _ | .bvc _ | .bvs _
  | .bcc _ | .bcs _ | .bne _ | .beq _ | .jmpAbs _ | .jmpInd _ | .jsr _ | .rts | .rti | .pha
  | .pla | .php | .plp | .tsx | .txs | .clc | .sec | .cli | .sei | .cld | .sed | .clv | .brk
  | .nop => none

/-- The reads of the two bytes of a zero-page pointer, low byte first (41_addressing.md R461, R462). -/
def pointerReads : MemOperand → State → List Access
  | .indexedIndirectX z, s => [.read (zext16 (z + s.x)), .read (zext16 (z + s.x + 1))]
  | .indirectIndexedY z, _ => [.read (zext16 z), .read (zext16 (z + 1))]
  | .zeroPage _, _ | .zeroPageX _, _ | .zeroPageY _, _ => []
  | .absolute _, _ | .absoluteX _, _ | .absoluteY _, _ => []

/-- The write a `MemWrite` makes: none into ROM (20_memory.md R202). -/
def writeAccess (addr : Addr) (s : State) : List Access := if inRom s addr then [] else [.write addr]

/-- The writes of `n` pushes, up to the first that faults (40_sequencer.md R420, R423). -/
def pushAccesses : Nat → State → List Access
  | 0, _ => []
  | n + 1, s =>
    if pushOverflows s || inRom s (stackAddr s.sp) then []
    else .write (stackAddr s.sp) :: pushAccesses n (s.setSp (s.sp - 1))

/-- The reads of `n` pulls, up to the first that faults (40_sequencer.md R421, R423). -/
def pullAccesses : Nat → State → List Access
  | 0, _ => []
  | n + 1, s =>
    if pullUnderflows s then []
    else .read (stackAddr (s.sp + 1)) :: pullAccesses n (s.setSp (s.sp + 1))

/-- The accesses of `Load` or of a store, shift or modify on an instruction's memory operand: the pointer
bytes, then `rest` of the effective address. -/
def operandAccesses (rest : Addr → List Access) (i : Instr) (s : State) : List Access :=
  match memOperandOf i with
  | none => []
  | some m => pointerReads m s ++ rest (effAddr m s)

/-- The accesses of an instruction after its own bytes (20_memory.md R207), from the state its rule
runs on. -/
def accesses (i : Instr) (s : State) : List Access :=
  match i with
  | .jmpInd w => [.read w, .read (nextInPage w)]
  | _ =>
    match i.op with
    | .lda | .ldx | .ldy | .adc | .sbc | .and | .ora | .eor | .bit | .cmp | .cpx | .cpy =>
      operandAccesses (fun ea => [.read ea]) i s
    | .sta | .stx | .sty => operandAccesses (fun ea => writeAccess ea s) i s
    | .asl | .lsr | .rol | .ror | .inc | .dec =>
      operandAccesses (fun ea => .read ea :: writeAccess ea s) i s
    | .pha | .php => pushAccesses 1 s
    | .jsr => pushAccesses 2 s
    | .brk =>
      let pushes := pushAccesses 3 s
      if pushes.length = 3 then pushes ++ [.read brkVector, .read (brkVector + 1)] else pushes
    | .pla | .plp => pullAccesses 1 s
    | .rts => pullAccesses 2 s
    | .rti => pullAccesses 3 s
    | .tax | .tay | .txa | .tya | .tsx | .txs | .inx | .dex | .iny | .dey | .nop => []
    | .bpl | .bmi | .bvc | .bvs | .bcc | .bcs | .bne | .beq | .jmp => []
    | .clc | .sec | .cli | .sei | .cld | .sed | .clv => []

/-- The reads of an instruction's own bytes (40_sequencer.md R402, 41_addressing.md R465). -/
def fetchAccesses (i : Instr) (s : State) : List Access :=
  (List.range i.length).map fun k => .read (s.pc + BitVec.ofNat 16 k)

/-- The accesses of one step (40_sequencer.md R402): none when halted (60_exceptions.md R911), the opcode
byte alone when it is illegal (R920). -/
def stepAccesses (s : State) : List Access :=
  match s.fault with
  | some _ => []
  | none =>
    match fetch s with
    | none => [.read s.pc]
    | some i => fetchAccesses i s ++ accesses i (advance i s)

/-- The accesses of a reset (70_reset_and_hazards.md R1000): the two bytes of the reset vector, low byte
first, and only where neither the override nor `RESET_PC` gives a PC. -/
def resetAccesses (cfg : Config) (override : Option Addr) : List Access :=
  match override, cfg.resetPc with
  | some _, _ => []
  | none, some _ => []
  | none, none => [.read resetVector, .read (resetVector + 1)]

end Sys2Proof.Machine
end

