-- ==== Sys2Proof/Machine/HostInterface.lean ====
section
/-! DEFINITION. The machine as its host sees it (60_exceptions.md R960): a machine that may never have
been reset (70_reset_and_hazards.md R1002), `step` with its outcome and the state it leaves
(40_sequencer.md R400), `reset`, and memory access between steps. -/

namespace Sys2Proof.Machine

/-- `StepOutcome` (40_sequencer.md R400): `Continue`, or the fault that was raised or re-reported. -/
inductive StepOutcome where
  | continued
  | faulted (f : Fault)
  deriving DecidableEq, Repr

/-- What a step that left this state reports: its recorded fault, or `Continue` (60_exceptions.md
R910). -/
def outcomeOf (t : State) : StepOutcome :=
  match t.fault with
  | none => .continued
  | some f => .faulted f

/-- The host's machine (70_reset_and_hazards.md R1002): constructed and never reset, with the memory the
host has loaded and no CORE state; or a CORE state. -/
inductive HostMachine where
  | neverReset (mem : Memory)
  | live (s : State)
  deriving DecidableEq, Repr

/-- `step()` (40_sequencer.md R400): the outcome and the machine after it. On a machine never reset it is
refused (70_reset_and_hazards.md R1002). -/
def hostStep : HostMachine → Except Refusal (StepOutcome × HostMachine)
  | .neverReset _ => .error .neverReset
  | .live s =>
    match step s with
    | .next t => .ok (outcomeOf t, .live t)
    | .fault f => .ok (.faulted f, .live s)
    | .refused r => .error r

/-- A state with given A, X, Y and memory, before the reset that loads the rest of it. -/
def powerOn (cfg : Config) (a x y : Byte) (mem : Memory) : State where
  a := a
  x := x
  y := y
  sp := cfg.resetSp
  p := cfg.resetP
  pc := 0x0000#16
  fault := none
  mem := mem
  cfg := cfg
  draws := 0

/-- `reset(override)` with the configuration it supplies (70_reset_and_hazards.md R1000, R1003). The
first reset takes `a`, `x` and `y` for A, X and Y, which are arbitrary then (R1002); every other reset
keeps them, and does not look at these arguments. -/
def hostReset (cfg : Config) (override : Option Addr) (a x y : Byte) : HostMachine → HostMachine
  | .neverReset mem => .live (resetWith cfg override (powerOn cfg a x y mem))
  | .live s => .live (resetWith cfg override s)

/-- The memory of the host's machine. -/
def HostMachine.mem : HostMachine → Memory
  | .neverReset mem => mem
  | .live s => s.mem

/-- A host read between steps (60_exceptions.md R960). -/
def hostRead (h : HostMachine) (addr : Addr) : Byte := h.mem.read addr

/-- A host write between steps, of any byte, ROM included (60_exceptions.md R960, 92_eei_decisions.md
D25). -/
def hostWrite (addr : Addr) (v : Byte) : HostMachine → HostMachine
  | .neverReset mem => .neverReset (mem.write addr v)
  | .live s => .live (s.setMem (s.mem.write addr v))

/-- `n + 1` steps by the host, up to a refusal: the outcome of the last and the machine after it. -/
def hostSteps : Nat → HostMachine → Except Refusal (StepOutcome × HostMachine)
  | 0, h => hostStep h
  | n + 1, h =>
    match hostStep h with
    | .ok (_, h') => hostSteps n h'
    | .error r => .error r

end Sys2Proof.Machine
end

