-- ==== Sys2Proof/Machine/Observation.lean ====
section
/-! DEFINITION. The end of a run as an observer sees it (60_exceptions.md R961, 92_eei_decisions.md D23). The
exit address, the dead-loop detector and its iteration bound are parameters of the observation and not
of the CORE: no step looks at them. -/

namespace Sys2Proof.Machine

/-- How an observation of a run ends (60_exceptions.md R961). -/
inductive RunEnd where
  | faulted (f : Fault)
  | exited
  | deadLoop
  deriving DecidableEq, Repr

/-- Which ends count as success (60_exceptions.md R961). -/
def RunEnd.successful : RunEnd → Bool
  | .faulted _ => false
  | .exited => true
  | .deadLoop => true

/-- The host's own dead-loop detector: from the iteration bound, the states the run has passed, latest
first, and the state it is at, whether it fires. The spec leaves the detector to the host, so the
observation takes any (log 15). -/
abbrev DeadLoopDetector := Nat → List State → State → Bool

/-- "A bounded count of iterations through a detected dead loop" (60_exceptions.md R960), for the loop of
one instruction that jumps to itself (47_branch_jump.md R760): the last `bound` steps all started at
the PC the run is at. An example of a detector (DESIGN CHOICE, log 15). -/
def selfLoopDetector : DeadLoopDetector := fun bound past s =>
  (past.take bound).length == bound && (past.take bound).all fun u => u.pc == s.pc

/-- "Reaching a known dead-loop address before a bounded iteration count" (60_exceptions.md R961): the run
is at the address after fewer steps than the bound. An example of a detector (DESIGN CHOICE, log 15). -/
def knownLoopDetector (addr : Addr) : DeadLoopDetector := fun bound past s =>
  s.pc == addr && decide (past.length < bound)

/-- Whether a run that has passed some states, latest first, ends at this one, and how (60_exceptions.md
R961). A recorded fault goes before the other two (DEDUCED from 95_test_vectors.md E7, log 15), and the
exit address before the detector (DESIGN CHOICE, log 15). -/
def runEnd (exitPc : Option Addr) (detector : DeadLoopDetector) (loopBound : Nat)
    (past : List State) (s : State) : Option RunEnd :=
  match s.fault with
  | some f => some (.faulted f)
  | none =>
    if exitPc = some s.pc then some .exited
    else if detector loopBound past s then some .deadLoop
    else none

/-- The observation of a run of at most `n` more steps: how it ends and the first state that meets one of
the three conditions, or `none` when no state up to there meets one (60_exceptions.md R961). -/
def observe (exitPc : Option Addr) (detector : DeadLoopDetector) (loopBound : Nat) :
    Nat → List State → State → Option (RunEnd × State)
  | n, past, s =>
    match runEnd exitPc detector loopBound past s, n with
    | some e, _ => some (e, s)
    | none, 0 => none
    | none, n + 1 =>
      match step s with
      | .next t => observe exitPc detector loopBound n (s :: past) t
      | .fault _ => none
      | .refused _ => none

end Sys2Proof.Machine
end

