-- ==== Sys2Proof/Safety.lean ====
section
/-! DEFINITION. The terms statements use about whole states and runs: a running and a halted machine
(10_state.md R115), the invariant of the model's own representation, and safe runs. -/

namespace Sys2Proof.Machine

/-- The Running state (10_state.md R115). -/
def State.Running (s : State) : Prop := s.fault = none

/-- Halted-on-Fault with a reason (10_state.md R115). -/
def State.HaltedOn (s : State) (f : Fault) : Prop := s.fault = some f

/-- The invariant of the representation: memory is in canonical form. -/
def State.WellFormed (s : State) : Prop := s.mem.wf = true

/-- A safe run of `n` steps: from `s` to `t`, and `t` has recorded no fault. -/
def SafeRun (n : Nat) (s t : State) : Prop := Sys2Proof.core.run n s = .next t ∧ t.Running

end Sys2Proof.Machine
end

