-- ==== Sys2Proof/Certificates/Slice0/Obligations.lean ====
section
/-! DEFINITION. The statements for the provers. Each names the rule or section of spec/ it formalises. The
words they share stand in `Sys2Proof.Claims`: how an instruction's bytes decode and what its execution
leaves, said over every state. A right side `{ s with … }` says that every field not named is
unchanged. -/

namespace Sys2Proof.Claims

open Sys2Proof.Machine

/-- These bytes, whatever follows them, decode to this instruction. -/
def Decodes (bytes : List Byte) (i : Instr) : Prop :=
  ∀ rest, decode (bytes ++ rest) = .ok (i, rest)

/-- The bytes decode to the instruction, and from every state its execution answers a next state with the
given effect. The state before has PC at the next instruction (40_sequencer.md R426). -/
def Does (bytes : List Byte) (i : Instr) (effect : State → State → Prop) : Prop :=
  Decodes bytes i ∧ ∀ s, ∃ t, exec i s = .next t ∧ effect s t

/-- An immediate form: the operand is the byte after the opcode. -/
def Immediate (op : Byte) (mk : Byte → Instr) (effect : Byte → State → State → Prop) : Prop :=
  ∀ v, Does [op, v] (mk v) (effect v)

/-- A two-byte form whose effect depends on the effective address. -/
def AtByte (op : Byte) (mk : Byte → Instr) (mode : Byte → MemOperand)
    (effect : Addr → State → State → Prop) : Prop :=
  ∀ z, Does [op, z] (mk z) fun s t => effect (effAddr (mode z) s) s t

/-- A three-byte form whose effect depends on the effective address. -/
def AtWord (op : Byte) (mk : Addr → Instr) (mode : Addr → MemOperand)
    (effect : Addr → State → State → Prop) : Prop :=
  ∀ w, Does [op, loByte w, hiByte w] (mk w) fun s t => effect (effAddr (mode w) s) s t

/-- A two-byte form that reads the byte at the effective address. -/
def ReadsByte (op : Byte) (mk : Byte → Instr) (mode : Byte → MemOperand)
    (effect : Byte → State → State → Prop) : Prop :=
  AtByte op mk mode fun ea s t => effect (s.mem.read ea) s t

/-- A three-byte form that reads the byte at the effective address. -/
def ReadsWord (op : Byte) (mk : Addr → Instr) (mode : Addr → MemOperand)
    (effect : Byte → State → State → Prop) : Prop :=
  AtWord op mk mode fun ea s t => effect (s.mem.read ea) s t

/-- N and Z come from a byte, and the flags that are not listed keep their values. -/
def NZFrom (v : Byte) (others : List Flag) (s t : State) : Prop :=
  t.flag .n = decide (128 ≤ v.toNat) ∧ t.flag .z = decide (v.toNat = 0) ∧
    ∀ f, f ≠ .n → f ≠ .z → f ∉ others → t.flag f = s.flag f

/-- A register takes a byte, N and Z come from it, and nothing else changes. -/
def LoadsA (v : Byte) (s t : State) : Prop := t = { s with a := v, p := t.p } ∧ NZFrom v [] s t

/-- As `LoadsA`, for X. -/
def LoadsX (v : Byte) (s t : State) : Prop := t = { s with x := v, p := t.p } ∧ NZFrom v [] s t

/-- As `LoadsA`, for Y. -/
def LoadsY (v : Byte) (s t : State) : Prop := t = { s with y := v, p := t.p } ∧ NZFrom v [] s t

/-- Below `ROM_START`, where writes are allowed. -/
def Writable (s : State) (addr : Addr) : Prop := addr.toNat < s.cfg.romStart.toNat

/-- The state with one byte of memory written. -/
def stored (addr : Addr) (v : Byte) (s : State) : State := { s with mem := s.mem.write addr v }

/-- The state with a fault recorded and nothing else changed. -/
def halted (f : Fault) (s : State) : State := { s with fault := some f }

/-- A write to an address: below `ROM_START` the state satisfies `ok`, at or above it the fault is
recorded and nothing else changes. -/
def WritesTo (addr : Addr) (ok : Prop) (s t : State) : Prop :=
  (Writable s addr → ok) ∧ (¬Writable s addr → t = halted (.romViolation addr) s)

/-- A store of a register to the effective address. -/
def Stores (reg : State → Byte) (ea : Addr) (s t : State) : Prop :=
  WritesTo ea (t = stored ea (reg s) s) s t

/-- A read-modify-write at the effective address: the byte becomes `f` of the byte and C, N and Z come
from the result, and C from `out` where the instruction writes C. -/
def Modifies (f : Nat → Nat → Nat) (out : Option (Nat → Bool)) (ea : Addr) (s t : State) : Prop :=
  let v := (s.mem.read ea).toNat
  let r := BitVec.ofNat 8 (f v (s.flag .c).toNat)
  WritesTo ea
    (t = { stored ea r s with p := t.p } ∧ NZFrom r [.c] s t ∧
      t.flag .c = (match out with | some g => g v | none => s.flag .c)) s t

/-- The accumulator form of a shift or rotate. -/
def ModifiesA (f : Nat → Nat → Nat) (out : Nat → Bool) (s t : State) : Prop :=
  let v := s.a.toNat
  let r := BitVec.ofNat 8 (f v (s.flag .c).toNat)
  t = { s with a := r, p := t.p } ∧ NZFrom r [.c] s t ∧ t.flag .c = out v

/-- What `Compare(R, M)` leaves (46_compare_incdec.md R700). -/
def Compares (reg : State → Byte) (m : Byte) (s t : State) : Prop :=
  t = { s with p := t.p } ∧ t.flag .c = decide (m.toNat ≤ (reg s).toNat) ∧
    NZFrom (BitVec.ofNat 8 ((reg s).toNat + 256 - m.toNat)) [.c] s t

/-- Only one flag is written. -/
def WritesFlag (f : Flag) (b : Bool) (s t : State) : Prop :=
  t = { s with p := t.p } ∧ t.flag f = b ∧ ∀ g, g ≠ f → t.flag g = s.flag g

/-- The value of a valid BCD byte (00_scope.md R20). -/
def dec (v : Byte) : Nat := v.toNat / 16 * 10 + v.toNat % 16

/-- The BCD byte of a number below 100. -/
def bcd (n : Nat) : Byte := BitVec.ofNat 8 (n / 10 * 16 + n % 10)

/-- A byte as a signed number. -/
def signed (v : Byte) : Int := if 128 ≤ v.toNat then (v.toNat : Int) - 256 else v.toNat

/-- The address of the stack byte that a value of S names (10_state.md R105). -/
def stackByte (sp : Byte) : Addr := BitVec.ofNat 16 (256 + sp.toNat)

/-- `n` pushes do not reach the low boundary (40_sequencer.md R420, R422). -/
def RoomToPush (n : Nat) (s : State) : Prop := s.cfg.stackWrap = true ∨ n ≤ s.sp.toNat

/-- `n` pulls do not reach the high boundary (40_sequencer.md R421, R422). -/
def RoomToPull (n : Nat) (s : State) : Prop := s.cfg.stackWrap = true ∨ s.sp.toNat + n ≤ 255

/-- The word in memory whose bytes lie at two addresses. -/
def wordAt (m : Memory) (lo hi : Addr) : Addr :=
  BitVec.ofNat 16 ((m.read hi).toNat * 256 + (m.read lo).toNat)

/-- The state a push leaves. -/
def pushed (v : Byte) (s : State) : State := { stored (stackByte s.sp) v s with sp := s.sp - 1 }

/-- The operations that may write each flag of P (10_state.md R113; 95_test_vectors.md E2). -/
def flagWriters : Flag → List Op
  | .n => [.lda, .ldx, .ldy, .tax, .tay, .txa, .tya, .tsx, .pla, .adc, .sbc, .and, .ora, .eor, .bit,
      .asl, .lsr, .rol, .ror, .inc, .dec, .inx, .iny, .dex, .dey, .cmp, .cpx, .cpy, .plp, .rti]
  | .z => [.lda, .ldx, .ldy, .tax, .tay, .txa, .tya, .tsx, .pla, .adc, .sbc, .and, .ora, .eor, .bit,
      .asl, .lsr, .rol, .ror, .inc, .dec, .inx, .iny, .dex, .dey, .cmp, .cpx, .cpy, .plp, .rti]
  | .c => [.adc, .sbc, .asl, .lsr, .rol, .ror, .cmp, .cpx, .cpy, .clc, .sec, .plp, .rti]
  | .v => [.adc, .sbc, .bit, .clv, .plp, .rti]
  | .d => [.cld, .sed, .plp, .rti]
  | .i => [.cli, .sei, .brk, .plp, .rti]
  | .b => [.plp, .rti]
  | .u => [.plp, .rti]

/-- The 105 illegal opcodes (30_encoding.md R330). -/
def illegalOpcodes : List Byte :=
  [0x02, 0x03, 0x04, 0x07, 0x0B, 0x0C, 0x0F, 0x12, 0x13, 0x14, 0x17, 0x1A, 0x1B, 0x1C, 0x1F] ++
  [0x22, 0x23, 0x27, 0x2B, 0x2F, 0x32, 0x33, 0x34, 0x37, 0x3A, 0x3B, 0x3C, 0x3F, 0x42, 0x43] ++
  [0x44, 0x47, 0x4B, 0x4F, 0x52, 0x53, 0x54, 0x57, 0x5A, 0x5B, 0x5C, 0x5F, 0x62, 0x63, 0x64] ++
  [0x67, 0x6B, 0x6F, 0x72, 0x73, 0x74, 0x77, 0x7A, 0x7B, 0x7C, 0x7F, 0x80, 0x82, 0x83, 0x87] ++
  [0x89, 0x8B, 0x8F, 0x92, 0x93, 0x97, 0x9B, 0x9C, 0x9E, 0x9F, 0xA3, 0xA7, 0xAB, 0xAF, 0xB2] ++
  [0xB3, 0xB7, 0xBB, 0xBF, 0xC2, 0xC3, 0xC7, 0xCB, 0xCF, 0xD2, 0xD3, 0xD4, 0xD7, 0xDA, 0xDB] ++
  [0xDC, 0xDF, 0xE2, 0xE3, 0xE7, 0xEB, 0xEF, 0xF2, 0xF3, 0xF4, 0xF7, 0xFA, 0xFB, 0xFC, 0xFF]

end Sys2Proof.Claims

open Sys2Proof Sys2Proof.Machine Sys2Proof.Claims

/-- One instruction of every family, its opcode written as the fields `aaa_bbb_cc` of 30_encoding.md R304
to R309 (section 2 there), decodes to what it stands for, the operand bytes little-endian. -/
def Obligations.SampleWordsDecodeBitByBit : Prop :=
  Decodes [0b101_010_01#8, 0x41#8] (.ldaImm 0x41#8) ∧
  Decodes [0b101_111_10#8, 0x34#8, 0x12#8] (.ldxAbsY 0x1234#16) ∧
  Decodes [0b011_000_01#8, 0x10#8] (.adcIndX 0x10#8) ∧
  Decodes [0b111_100_01#8, 0x10#8] (.sbcIndY 0x10#8) ∧
  Decodes [0b001_011_00#8, 0x00#8, 0x03#8] (.bitAbs 0x0300#16) ∧
  Decodes [0b011_010_10#8] .rorAcc ∧
  Decodes [0b110_101_10#8, 0x10#8] (.decZpX 0x10#8) ∧
  Decodes [0b110_100_00#8, 0xFC#8] (.bne 0xFC#8) ∧
  Decodes [0b011_011_00#8, 0xFF#8, 0x10#8] (.jmpInd 0x10FF#16) ∧
  Decodes [0b001_010_00#8] .plp ∧
  Decodes [0b000_000_00#8] .brk

/-- For every well-formed instruction, with every operand at every value, decoding its encoding gives it back
and leaves the bytes after it (30_encoding.md R300 to R302, R320). -/
def Obligations.DecodeInvertsEncode : Prop :=
  ∀ (i : Instr) (rest : List Byte), i.wellFormed = true → decode (encode i ++ rest) = .ok (i, rest)

/-- Bytes that decode are the encoding of what they decode to, followed by the rest: each instruction has one
encoding, and the Decoder consumes exactly the bytes its length says (30_encoding.md R300). -/
def Obligations.EncodeInvertsDecode : Prop :=
  ∀ (bytes rest : List Byte) (i : Instr), decode bytes = .ok (i, rest) →
    bytes = encode i ++ rest ∧ (encode i).length = i.length

/-- 30_encoding.md R322 with the map of R320: the Decoder is a function of the opcode byte alone that yields a
well-formed descriptor or nothing; it yields nothing exactly for the 105 opcodes R330 lists; 151 opcodes
are documented (R321). -/
def Obligations.DecoderIsTotalOverOpcodes : Prop :=
  (∀ op : Byte, decodeOpcode op = none ↔ op ∈ illegalOpcodes) ∧
  (∀ (op : Byte) (d : Descriptor), decodeOpcode op = some d → d.wellFormed = true) ∧
  (∀ (op : Byte) (tail rest : List Byte) (i : Instr),
    decode (op :: tail) = .ok (i, rest) → decodeOpcode op = some i.descriptor) ∧
  illegalOpcodes.length = 105 ∧ illegalOpcodes.Nodup

/-- When the bytes at PC decode to an instruction and the machine is running, the step is the execution of
that instruction from the state whose PC is moved past its bytes, modulo 2^16 (40_sequencer.md R402). -/
def Obligations.StepRunsTheDecodedInstruction : Prop :=
  ∀ (s : State) (i : Instr) (rest : List Byte), s.fault = none →
    decode [s.mem.read s.pc, s.mem.read (s.pc + 1), s.mem.read (s.pc + 2)] = .ok (i, rest) →
    step s = exec i { s with pc := s.pc + BitVec.ofNat 16 i.length }

/-- 60_exceptions.md R912: after a step on an illegal opcode everything is as before the step, but the fault is
recorded with the opcode and its address, which is PC. Said of the step as the host sees it, which reports
the fault and the state. -/
def Obligations.IllegalOpcodeRollsBack : Prop :=
  ∀ s : State, s.fault = none → decodeOpcode (s.mem.read s.pc) = none →
    let f := Fault.illegalOpcode (s.mem.read s.pc) s.pc
    hostStep (.live s) = .ok (.faulted f, .live { s with fault := some f })

/-- 10_state.md R116: a halted machine reports its fault at every one of any number of steps and changes
nothing; a reset clears the fault, keeps A, X, Y and memory, and the machine runs again. -/
def Obligations.HaltedMachineChangesOnlyByReset : Prop :=
  ∀ (s : State) (f : Fault), s.fault = some f →
    (∀ n, hostSteps n (.live s) = .ok (.faulted f, .live s)) ∧
    ∀ (cfg : Config) (override : Option Addr) (a x y : Byte), ∃ t,
      hostReset cfg override a x y (.live s) = .live t ∧ t.fault = none

/-- 60_exceptions.md section 2 with 92_eei_decisions.md D22 (the decision of the spec): a halted step makes
no access to memory. Section 3 there: an illegal opcode faults before any operand byte is read. -/
def Obligations.HaltedStepMakesNoAccess : Prop :=
  ∀ s : State, (∀ f, s.fault = some f → stepAccesses s = []) ∧
    (s.fault = none → decodeOpcode (s.mem.read s.pc) = none → stepAccesses s = [.read s.pc])

/-- 60_exceptions.md section 1: every step of a machine that has been reset returns an outcome and a state;
none is refused. The step answers a next state exactly when the machine is running (log 1). -/
def Obligations.EveryStepReportsAnOutcome : Prop :=
  ∀ s : State, (∃ o t, hostStep (.live s) = .ok (o, .live t)) ∧
    ((∃ t, step s = .next t) ↔ s.fault = none)

/-- 60_exceptions.md section 1 (the four causes): a step that records a fault had its cause. The stack
faults occur only with wrap off and leave S at the boundary; a ROM violation names an address at or
above `ROM_START`, whose byte is unchanged; an illegal opcode is that of the byte at PC. -/
def Obligations.RecordedFaultsHaveTheirCause : Prop :=
  ∀ s t : State, step s = .next t → ∀ f, t.fault = some f →
    match f with
    | .illegalOpcode op at_ => at_ = s.pc ∧ op = s.mem.read s.pc ∧ op ∈ illegalOpcodes
    | .stackOverflow => s.cfg.stackWrap = false ∧ t.sp = 0x00#8 ∧
        ∃ i, fetch s = some i ∧ i.op ∈ [Op.pha, .php, .jsr, .brk]
    | .stackUnderflow => s.cfg.stackWrap = false ∧ t.sp = 0xFF#8 ∧
        ∃ i, fetch s = some i ∧ i.op ∈ [Op.pla, .plp, .rts, .rti]
    | .romViolation addr => ¬Writable s addr ∧ t.mem.read addr = s.mem.read addr ∧
        ∃ i, fetch s = some i ∧ i.op ∈ [Op.sta, .stx, .sty, .asl, .lsr, .rol, .ror, .inc, .dec,
          .pha, .php, .jsr, .brk]

/-- 40_sequencer.md section 2 (the wraps are 92_eei_decisions.md D15, the decision of the spec): after a
step that continues, PC is `PC_next` unless the instruction wrote PC. A branch either writes its target
or leaves `PC_next`. -/
def Obligations.PcIsNextUnlessTheInstructionWritesIt : Prop :=
  ∀ (s t : State) (i : Instr), step s = .next t → fetch s = some i → t.fault = none →
    (i.op ∉ [Op.bpl, .bmi, .bvc, .bvs, .bcc, .bcs, .bne, .beq, .jmp, .jsr, .rts, .rti, .brk] →
      t.pc = s.pc + BitVec.ofNat 16 i.length) ∧
    (i.op ∈ [Op.bpl, .bmi, .bvc, .bvs, .bcc, .bcs, .bne, .beq] →
      t.pc = s.pc + 2 ∨
      t.pc = BitVec.ofInt 16 ((s.pc.toNat : Int) + 2 + signed (s.mem.read (s.pc + 1))))

/-- 40_sequencer.md section 2 with 92_eei_decisions.md D3 (the decision of the spec): after an execute-time
fault PC holds `PC_next`, A, X and Y are unchanged, every effect before the violating access remains and
none after it has taken place. P is unchanged but for RTI, whose first pull loads it when it completes.
S has moved once for each stack access made, and a byte of memory differs only where the accesses made
up to the fault wrote it (what each push wrote is stated with the pushing instructions). -/
def Obligations.ExecuteTimeFaultLeavesPcNext : Prop :=
  ∀ (s t : State) (i : Instr), step s = .next t → fetch s = some i → t.fault ≠ none →
    let made := accesses i (advance i s)
    t.pc = s.pc + BitVec.ofNat 16 i.length ∧ t.a = s.a ∧ t.x = s.x ∧ t.y = s.y ∧
      t.cfg = s.cfg ∧ t.draws = s.draws ∧
      (i.op ≠ .rti → t.p = s.p) ∧
      (i.op = .rti → t.p = if made = [] then s.p else s.mem.read (stackByte (s.sp + 1))) ∧
      (i.op ∈ [Op.pha, .php, .jsr, .brk] → t.sp = s.sp - BitVec.ofNat 8 made.length) ∧
      (i.op ∈ [Op.pla, .plp, .rts, .rti] → t.sp = s.sp + BitVec.ofNat 8 made.length) ∧
      (i.op ∉ [Op.pha, .php, .jsr, .brk, .pla, .plp, .rts, .rti] → t.sp = s.sp ∧ t.mem = s.mem) ∧
      ∀ addr, .write addr ∉ made → t.mem.read addr = s.mem.read addr

/-- The invariant of `StepKeepsCanonicalMemory` holds at reset, and the machine is running there
(70_reset_and_hazards.md R1000: fault is none). -/
def Obligations.ResetStateIsCanonicalAndRunning : Prop :=
  State.reset.WellFormed ∧ State.reset.Running

/-- The canonical form of memory (strictly rising addresses below 2^16, no byte equal to what an unlisted
address reads as) is an invariant of the step, from every state that has it. -/
def Obligations.StepKeepsCanonicalMemory : Prop :=
  ∀ s t : State, s.WellFormed → step s = .next t → t.WellFormed

/-- 70_reset_and_hazards.md section 3: "The configuration changes only at reset". No step changes it, and a
reset supplies the new one. -/
def Obligations.ConfigurationChangesOnlyAtReset : Prop :=
  (∀ s t : State, step s = .next t → t.cfg = s.cfg) ∧
  ∀ (cfg : Config) (override : Option Addr) (s : State), (resetWith cfg override s).cfg = cfg

/-- 20_memory.md section 1: addresses at or above the boundary are read-only from the view of the CPU. No
step, whichever instruction it runs and whether it faults or not, changes a byte there. -/
def Obligations.RomIsReadOnlyToTheCore : Prop :=
  ∀ (s t : State) (addr : Addr), step s = .next t → s.cfg.romStart.toNat ≤ addr.toNat →
    t.mem.read addr = s.mem.read addr

/-- 10_state.md section 5, flag purity: an instruction leaves every flag it does not write bit-identical.
The writers of each flag are those of the table there and of 95_test_vectors.md E2. -/
def Obligations.UnlistedFlagsAreBitIdentical : Prop :=
  ∀ (i : Instr) (s t : State) (f : Flag), exec i s = .next t → i.op ∉ flagWriters f →
    t.flag f = s.flag f

/-- 10_state.md section 2 and 3 (the writers of A, X, Y and S, which the spec derives from the instruction
rules): a register changes only in an instruction that is listed as writing it. -/
def Obligations.RegistersChangeOnlyByTheirWriters : Prop :=
  ∀ (i : Instr) (s t : State), exec i s = .next t →
    (t.a ≠ s.a → i.op ∈ [Op.lda, .pla, .txa, .tya, .adc, .sbc, .and, .ora, .eor] ∨
      i ∈ [Instr.aslAcc, .lsrAcc, .rolAcc, .rorAcc]) ∧
    (t.x ≠ s.x → i.op ∈ [Op.ldx, .tax, .tsx, .inx, .dex]) ∧
    (t.y ≠ s.y → i.op ∈ [Op.ldy, .tay, .iny, .dey]) ∧
    (t.sp ≠ s.sp → i.op ∈ [Op.txs, .pha, .php, .pla, .plp, .jsr, .rts, .rti, .brk]) ∧
    (t.draws ≠ s.draws → i.op ∈ [Op.adc, .sbc] ∧ s.flag .d = true ∧ s.cfg.invalidBcd = .anyValue)

/-- 20_memory.md section 3 with 92_eei_decisions.md D17 (the decision of the spec): the CORE issues exactly
the accesses its rules list. A byte that the accesses of the instruction do not write is unchanged; the
address written is computed by `effAddr` or `stackAddr`, as the meaning computes it. -/
def Obligations.MemoryChangesOnlyAtListedWrites : Prop :=
  ∀ (i : Instr) (s t : State) (addr : Addr), exec i s = .next t → .write addr ∉ accesses i s →
    t.mem.read addr = s.mem.read addr

namespace Sys2Proof.Claims

open Sys2Proof.Machine

/-- The byte of page 0 whose number is `n` modulo 256, as a read (41_addressing.md, the pointer modes). -/
def zeroPageRead (n : Nat) : Access := .read (BitVec.ofNat 16 (n % 256))

/-- The pointer bytes a memory operand has read, in order: two for each of the pointer modes, in page 0,
and none for the others. -/
def readsOfPointer (m : MemOperand) (s : State) : List Access :=
  match m with
  | .indexedIndirectX z => [zeroPageRead (z.toNat + s.x.toNat), zeroPageRead (z.toNat + s.x.toNat + 1)]
  | .indirectIndexedY z => [zeroPageRead z.toNat, zeroPageRead (z.toNat + 1)]
  | .zeroPage _ | .zeroPageX _ | .zeroPageY _ | .absolute _ | .absoluteX _ | .absoluteY _ => []

end Sys2Proof.Claims

/-- 20_memory.md section 3 (the widths by instruction) with 92_eei_decisions.md D17 (the decision of the
spec): which bytes an instruction that completes reads and writes after its own bytes, in order. The
lists stand beside the step, which is the choice of the model (log 7). (zp,X) reads its pointer at
(z + X) mod 256 and then at (z + X + 1) mod 256, (zp),Y at z and then at (z + 1) mod 256, and no other
mode reads a pointer (92_eei_decisions.md D16 for the wrap). Then loads read one byte, stores write one,
read-modify-write instructions read one and then write it, PHA and PHP write one, PLA and PLP read one,
JSR writes two, RTS reads two, BRK writes three and reads two, RTI reads three, JMP indirect reads the
two bytes of its target, the second within the page of the pointer (41_addressing.md, general knowledge
of the spec G11), and every other form makes no access. -/
def Obligations.AccessListsHaveTheListedWidths : Prop :=
  ∀ (i : Instr) (s t : State), s.fault = none → exec i s = .next t → t.fault = none →
    (∀ m, memOperandOf i = some m →
      (i.op ∈ [Op.lda, .ldx, .ldy, .adc, .sbc, .and, .ora, .eor, .bit, .cmp, .cpx, .cpy] →
        accesses i s = readsOfPointer m s ++ [.read (effAddr m s)]) ∧
      (i.op ∈ [Op.sta, .stx, .sty] → accesses i s = readsOfPointer m s ++ [.write (effAddr m s)]) ∧
      (i.op ∈ [Op.asl, .lsr, .rol, .ror, .inc, .dec] →
        accesses i s = [.read (effAddr m s), .write (effAddr m s)])) ∧
    (i.op ∈ [Op.pha, .php] → accesses i s = [.write (stackByte s.sp)]) ∧
    (i.op ∈ [Op.pla, .plp] → accesses i s = [.read (stackByte (s.sp + 1))]) ∧
    (i.op = .jsr → accesses i s = [.write (stackByte s.sp), .write (stackByte (s.sp - 1))]) ∧
    (i.op = .rts → accesses i s = [.read (stackByte (s.sp + 1)), .read (stackByte (s.sp + 2))]) ∧
    (i.op = .rti → accesses i s = [.read (stackByte (s.sp + 1)), .read (stackByte (s.sp + 2)),
      .read (stackByte (s.sp + 3))]) ∧
    (i.op = .brk → accesses i s = [.write (stackByte s.sp), .write (stackByte (s.sp - 1)),
      .write (stackByte (s.sp - 2)), .read 0xFFFE#16, .read 0xFFFF#16]) ∧
    (∀ w : Addr, i = .jmpInd w → accesses i s =
      [.read w, .read (BitVec.ofNat 16 (w.toNat / 256 * 256 + (w.toNat + 1) % 256))]) ∧
    (memOperandOf i = none → i.op ∉ [Op.pha, .php, .pla, .plp, .jsr, .rts, .rti, .brk] →
      (∀ w, i ≠ .jmpInd w) → accesses i s = [])

/-- 20_memory.md section 6 (section 3 for the accesses): a step is a function of the registers and of the
bytes it is listed as reading. Two states that differ only in other bytes make the same accesses and
agree after the step on everything but memory; and on canonical memories, as `StepKeepsCanonicalMemory`
keeps them, every byte the step writes has one value from both. -/
def Obligations.StepDependsOnlyOnTheBytesItReads : Prop :=
  ∀ (s : State) (m : Memory), (∀ addr, .read addr ∈ stepAccesses s → m.read addr = s.mem.read addr) →
    stepAccesses { s with mem := m } = stepAccesses s ∧
    (∀ t, step s = .next t → ∃ t', step { s with mem := m } = .next t' ∧
      { t' with mem := t.mem } = t ∧
      (s.WellFormed → m.wf = true →
        ∀ addr, .write addr ∈ stepAccesses s → t'.mem.read addr = t.mem.read addr))

/-- 40_sequencer.md section 4: the stack never leaves page 1, and with wrap off the pushes reach only 0x0101
to 0x01FF. -/
def Obligations.PushesStayInTheStackPage : Prop :=
  ∀ (i : Instr) (s t : State) (addr : Addr), i.op ∈ [Op.pha, .php, .jsr, .brk] →
    exec i s = .next t → t.mem.read addr ≠ s.mem.read addr →
    256 ≤ addr.toNat ∧ addr.toNat ≤ 511 ∧ (s.cfg.stackWrap = false → 257 ≤ addr.toNat)

/-- 20_memory.md section 1: a model represents memory as a total function from addresses to bytes. The
canonical lists are exactly those functions: each function is one canonical list, and one only. So a
statement over all states holds for every launch memory, whatever an unlisted address reads as (log 3). -/
def Obligations.CanonicalMemoriesAreTotalFunctions : Prop :=
  (∀ f : Addr → Byte, ∃ m : Memory, m.wf = true ∧ ∀ addr, m.read addr = f addr) ∧
  ∀ m m' : Memory, m.wf = true → m'.wf = true → (∀ addr, m.read addr = m'.read addr) → m = m'

/-- 41_addressing.md R455 (with R454 and R456): the zero-page modes as integers. The index wraps within page 0. -/
def Obligations.ZeroPageModesWrapInPageZero : Prop :=
  ∀ (z : Byte) (s : State),
    (effAddr (.zeroPage z) s).toNat = z.toNat ∧
    (effAddr (.zeroPageX z) s).toNat = (z.toNat + s.x.toNat) % 256 ∧
    (effAddr (.zeroPageY z) s).toNat = (z.toNat + s.y.toNat) % 256

/-- 41_addressing.md (the absolute, indexed and pointer modes) with 92_eei_decisions.md D15 and D16 (the
decisions of the spec): the sums wrap modulo 2^16, and the second byte of a zero-page pointer is read
within page 0. -/
def Obligations.WordAndPointerModesAsIntegers : Prop :=
  ∀ (z : Byte) (w : Addr) (s : State),
    let pointer := fun n : Nat =>
      (s.mem.read (BitVec.ofNat 16 ((n + 1) % 256))).toNat * 256 +
        (s.mem.read (BitVec.ofNat 16 (n % 256))).toNat
    effAddr (.absolute w) s = w ∧
    (effAddr (.absoluteX w) s).toNat = (w.toNat + s.x.toNat) % 65536 ∧
    (effAddr (.absoluteY w) s).toNat = (w.toNat + s.y.toNat) % 65536 ∧
    (effAddr (.indexedIndirectX z) s).toNat = pointer (z.toNat + s.x.toNat) ∧
    (effAddr (.indirectIndexedY z) s).toNat = (pointer z.toNat + s.y.toNat) % 65536

/-- 42_load_store_transfer.md R500, every form with its encoding. -/
def Obligations.LdaLoadsTheAccumulator : Prop :=
  Immediate 0xA9#8 .ldaImm LoadsA ∧
  ReadsByte 0xA5#8 .ldaZp .zeroPage LoadsA ∧
  ReadsByte 0xB5#8 .ldaZpX .zeroPageX LoadsA ∧
  ReadsWord 0xAD#8 .ldaAbs .absolute LoadsA ∧
  ReadsWord 0xBD#8 .ldaAbsX .absoluteX LoadsA ∧
  ReadsWord 0xB9#8 .ldaAbsY .absoluteY LoadsA ∧
  ReadsByte 0xA1#8 .ldaIndX .indexedIndirectX LoadsA ∧
  ReadsByte 0xB1#8 .ldaIndY .indirectIndexedY LoadsA

/-- 42_load_store_transfer.md R501, every form with its encoding. -/
def Obligations.LdxLoadsX : Prop :=
  Immediate 0xA2#8 .ldxImm LoadsX ∧
  ReadsByte 0xA6#8 .ldxZp .zeroPage LoadsX ∧
  ReadsByte 0xB6#8 .ldxZpY .zeroPageY LoadsX ∧
  ReadsWord 0xAE#8 .ldxAbs .absolute LoadsX ∧
  ReadsWord 0xBE#8 .ldxAbsY .absoluteY LoadsX

/-- 42_load_store_transfer.md R502, every form with its encoding. -/
def Obligations.LdyLoadsY : Prop :=
  Immediate 0xA0#8 .ldyImm LoadsY ∧
  ReadsByte 0xA4#8 .ldyZp .zeroPage LoadsY ∧
  ReadsByte 0xB4#8 .ldyZpX .zeroPageX LoadsY ∧
  ReadsWord 0xAC#8 .ldyAbs .absolute LoadsY ∧
  ReadsWord 0xBC#8 .ldyAbsX .absoluteX LoadsY

/-- 42_load_store_transfer.md (Stores), every form of STA, STX and STY with its encoding; the state after
the fault is that of 40_sequencer.md section 2 with 92_eei_decisions.md D3 and D20 (the decisions of the
spec). -/
def Obligations.StoresWriteTheRegisterBelowRom : Prop :=
  AtByte 0x85#8 .staZp .zeroPage (Stores State.a) ∧
  AtByte 0x95#8 .staZpX .zeroPageX (Stores State.a) ∧
  AtWord 0x8D#8 .staAbs .absolute (Stores State.a) ∧
  AtWord 0x9D#8 .staAbsX .absoluteX (Stores State.a) ∧
  AtWord 0x99#8 .staAbsY .absoluteY (Stores State.a) ∧
  AtByte 0x81#8 .staIndX .indexedIndirectX (Stores State.a) ∧
  AtByte 0x91#8 .staIndY .indirectIndexedY (Stores State.a) ∧
  AtByte 0x86#8 .stxZp .zeroPage (Stores State.x) ∧
  AtByte 0x96#8 .stxZpY .zeroPageY (Stores State.x) ∧
  AtWord 0x8E#8 .stxAbs .absolute (Stores State.x) ∧
  AtByte 0x84#8 .styZp .zeroPage (Stores State.y) ∧
  AtByte 0x94#8 .styZpX .zeroPageX (Stores State.y) ∧
  AtWord 0x8C#8 .styAbs .absolute (Stores State.y)

/-- 42_load_store_transfer.md (register transfers) and 48_stack_flag.md (TSX, TXS), with the general
knowledge of the spec G13 and G19: the six transfers with their encodings. TXS writes no flag. -/
def Obligations.TransfersCopyARegister : Prop :=
  Does [0xAA#8] .tax (fun s t => LoadsX s.a s t) ∧
  Does [0xA8#8] .tay (fun s t => LoadsY s.a s t) ∧
  Does [0x8A#8] .txa (fun s t => LoadsA s.x s t) ∧
  Does [0x98#8] .tya (fun s t => LoadsA s.y s t) ∧
  Does [0xBA#8] .tsx (fun s t => LoadsX s.sp s t) ∧
  Does [0x9A#8] .txs (fun s t => t = { s with sp := s.x })

/-- 43_arithmetic.md section 1 (the overflow formula is general knowledge of the spec, G14): the sum modulo
256, the carry when it exceeds 255, and the overflow as signed arithmetic says it: the exact signed sum
is out of range. -/
def Obligations.BinaryAdditionIsExact : Prop :=
  ∀ (a m : Byte) (c : Bool),
    (binAdd a m c).r.toNat = (a.toNat + m.toNat + c.toNat) % 256 ∧
    (binAdd a m c).carry = decide (255 < a.toNat + m.toNat + c.toNat) ∧
    ((binAdd a m c).overflow = true ↔
      ~~~(a ^^^ m) &&& (a ^^^ (binAdd a m c).r) &&& 0x80#8 ≠ 0) ∧
    ((binAdd a m c).overflow = true ↔
      signed a + signed m + (c.toNat : Int) < -128 ∨ 127 < signed a + signed m + (c.toNat : Int))

/-- 43_arithmetic.md section 1 (the overflow formula and the complement are general knowledge of the spec,
G14): the difference modulo 256, the carry as "no borrow", the signed overflow, and the equality
with the addition of the complement. -/
def Obligations.BinarySubtractionIsExact : Prop :=
  ∀ (a m : Byte) (c : Bool),
    binSub a m c = binAdd a (~~~m) c ∧
    (binSub a m c).r.toNat = (a.toNat + 256 - m.toNat - (1 - c.toNat)) % 256 ∧
    (binSub a m c).carry = decide (m.toNat + (1 - c.toNat) ≤ a.toNat) ∧
    ((binSub a m c).overflow = true ↔
      (a ^^^ m) &&& (a ^^^ (binSub a m c).r) &&& 0x80#8 ≠ 0) ∧
    ((binSub a m c).overflow = true ↔
      signed a - signed m - (1 - (c.toNat : Int)) < -128 ∨
      127 < signed a - signed m - (1 - (c.toNat : Int)))

/-- 43_arithmetic.md section 2 (the nibble algorithm is the choice of the spec, 92_eei_decisions.md D5): on
valid BCD bytes the decimal sum is that of a reference decimal adder, with its carry. -/
def Obligations.DecimalAdditionIsDigitwise : Prop :=
  ∀ (a m : Byte) (c : Bool), validBcd a = true → validBcd m = true →
    (decAdd a m c).r = bcd ((dec a + dec m + c.toNat) % 100) ∧
    (decAdd a m c).carry = decide (99 < dec a + dec m + c.toNat)

/-- 43_arithmetic.md section 2 (the nibble algorithm is the choice of the spec, 92_eei_decisions.md D5): on
valid BCD bytes the decimal difference is that of a reference decimal subtracter, with its no-borrow
carry. -/
def Obligations.DecimalSubtractionIsDigitwise : Prop :=
  ∀ (a m : Byte) (c : Bool), validBcd a = true → validBcd m = true →
    (decSub a m c).1 = bcd ((dec a + 100 - dec m - (1 - c.toNat)) % 100) ∧
    (decSub a m c).2 = decide (dec m + (1 - c.toNat) ≤ dec a)

namespace Sys2Proof.Claims

open Sys2Proof.Machine

/-- The spec fixes the decimal result: `INVALID_BCD` is `Algorithm`, or both operands are valid BCD
(43_arithmetic.md R554). -/
def DecimalIsFixed (m : Byte) (s : State) : Prop :=
  s.cfg.invalidBcd = .algorithm ∨ (validBcd s.a = true ∧ validBcd m = true)

/-- C, Z, N and V may be written, and A and the count of free values; nothing else changes. -/
def ArithmeticFrame (s t : State) : Prop :=
  t = { s with a := t.a, p := t.p, draws := t.draws } ∧
    ∀ f, f ∉ [Flag.c, .z, .n, .v] → t.flag f = s.flag f

/-- What ADC leaves (43_arithmetic.md R557). -/
def Adds (m : Byte) (s t : State) : Prop :=
  let b := binAdd s.a m (s.flag .c)
  let d := decAdd s.a m (s.flag .c)
  ArithmeticFrame s t ∧ t.flag .z = decide (b.r.toNat = 0) ∧
    (s.flag .d = false → t.a = b.r ∧ t.flag .c = b.carry ∧ t.draws = s.draws) ∧
    (s.flag .d = true → DecimalIsFixed m s →
      t.a = d.r ∧ t.flag .c = d.carry ∧ t.draws = s.draws) ∧
    (¬(s.flag .d = true ∧ s.cfg.decimalFlags = .nmosIntermediate) →
      t.flag .n = decide (128 ≤ b.r.toNat) ∧ t.flag .v = b.overflow) ∧
    (s.flag .d = true ∧ s.cfg.decimalFlags = .nmosIntermediate →
      t.flag .n = decide (128 ≤ d.t.toNat) ∧
      (t.flag .v = true ↔ (128 ≤ s.a.toNat ↔ 128 ≤ m.toNat) ∧ ¬(128 ≤ s.a.toNat ↔ 128 ≤ d.t.toNat)))

/-- What SBC leaves (43_arithmetic.md R558). -/
def Subtracts (m : Byte) (s t : State) : Prop :=
  let b := binSub s.a m (s.flag .c)
  let d := decSub s.a m (s.flag .c)
  ArithmeticFrame s t ∧ t.flag .z = decide (b.r.toNat = 0) ∧
    t.flag .n = decide (128 ≤ b.r.toNat) ∧ t.flag .v = b.overflow ∧
    (s.flag .d = false → t.a = b.r ∧ t.flag .c = b.carry ∧ t.draws = s.draws) ∧
    (s.flag .d = true → DecimalIsFixed m s →
      t.a = d.1 ∧ t.flag .c = b.carry ∧ t.draws = s.draws)

end Sys2Proof.Claims

/-- 43_arithmetic.md section 3 (ADC), every form with its encoding, in binary and decimal mode and under
every configuration (92_eei_decisions.md D4 and D5 are the decisions of the spec). Under AnyValue with a
non-BCD operand A and C are not constrained, and the instruction still completes. -/
def Obligations.AdcAddsInBothModes : Prop :=
  Immediate 0x69#8 .adcImm Adds ∧
  ReadsByte 0x65#8 .adcZp .zeroPage Adds ∧
  ReadsByte 0x75#8 .adcZpX .zeroPageX Adds ∧
  ReadsWord 0x6D#8 .adcAbs .absolute Adds ∧
  ReadsWord 0x7D#8 .adcAbsX .absoluteX Adds ∧
  ReadsWord 0x79#8 .adcAbsY .absoluteY Adds ∧
  ReadsByte 0x61#8 .adcIndX .indexedIndirectX Adds ∧
  ReadsByte 0x71#8 .adcIndY .indirectIndexedY Adds

/-- 43_arithmetic.md section 3 (SBC), every form with its encoding, in binary and decimal mode and under
every configuration (92_eei_decisions.md D5 is the decision of the spec). Under AnyValue with a non-BCD
operand A and C are not constrained (log 8). -/
def Obligations.SbcSubtractsInBothModes : Prop :=
  Immediate 0xE9#8 .sbcImm Subtracts ∧
  ReadsByte 0xE5#8 .sbcZp .zeroPage Subtracts ∧
  ReadsByte 0xF5#8 .sbcZpX .zeroPageX Subtracts ∧
  ReadsWord 0xED#8 .sbcAbs .absolute Subtracts ∧
  ReadsWord 0xFD#8 .sbcAbsX .absoluteX Subtracts ∧
  ReadsWord 0xF9#8 .sbcAbsY .absoluteY Subtracts ∧
  ReadsByte 0xE1#8 .sbcIndX .indexedIndirectX Subtracts ∧
  ReadsByte 0xF1#8 .sbcIndY .indirectIndexedY Subtracts

/-- 44_logical.md R600, R601 and R602, every form with its encoding. -/
def Obligations.AndOraEorCombineWithA : Prop :=
  Immediate 0x29#8 .andImm (fun m s t => LoadsA (s.a &&& m) s t) ∧
  ReadsByte 0x25#8 .andZp .zeroPage (fun m s t => LoadsA (s.a &&& m) s t) ∧
  ReadsByte 0x35#8 .andZpX .zeroPageX (fun m s t => LoadsA (s.a &&& m) s t) ∧
  ReadsWord 0x2D#8 .andAbs .absolute (fun m s t => LoadsA (s.a &&& m) s t) ∧
  ReadsWord 0x3D#8 .andAbsX .absoluteX (fun m s t => LoadsA (s.a &&& m) s t) ∧
  ReadsWord 0x39#8 .andAbsY .absoluteY (fun m s t => LoadsA (s.a &&& m) s t) ∧
  ReadsByte 0x21#8 .andIndX .indexedIndirectX (fun m s t => LoadsA (s.a &&& m) s t) ∧
  ReadsByte 0x31#8 .andIndY .indirectIndexedY (fun m s t => LoadsA (s.a &&& m) s t) ∧
  Immediate 0x09#8 .oraImm (fun m s t => LoadsA (s.a ||| m) s t) ∧
  ReadsByte 0x05#8 .oraZp .zeroPage (fun m s t => LoadsA (s.a ||| m) s t) ∧
  ReadsByte 0x15#8 .oraZpX .zeroPageX (fun m s t => LoadsA (s.a ||| m) s t) ∧
  ReadsWord 0x0D#8 .oraAbs .absolute (fun m s t => LoadsA (s.a ||| m) s t) ∧
  ReadsWord 0x1D#8 .oraAbsX .absoluteX (fun m s t => LoadsA (s.a ||| m) s t) ∧
  ReadsWord 0x19#8 .oraAbsY .absoluteY (fun m s t => LoadsA (s.a ||| m) s t) ∧
  ReadsByte 0x01#8 .oraIndX .indexedIndirectX (fun m s t => LoadsA (s.a ||| m) s t) ∧
  ReadsByte 0x11#8 .oraIndY .indirectIndexedY (fun m s t => LoadsA (s.a ||| m) s t) ∧
  Immediate 0x49#8 .eorImm (fun m s t => LoadsA (s.a ^^^ m) s t) ∧
  ReadsByte 0x45#8 .eorZp .zeroPage (fun m s t => LoadsA (s.a ^^^ m) s t) ∧
  ReadsByte 0x55#8 .eorZpX .zeroPageX (fun m s t => LoadsA (s.a ^^^ m) s t) ∧
  ReadsWord 0x4D#8 .eorAbs .absolute (fun m s t => LoadsA (s.a ^^^ m) s t) ∧
  ReadsWord 0x5D#8 .eorAbsX .absoluteX (fun m s t => LoadsA (s.a ^^^ m) s t) ∧
  ReadsWord 0x59#8 .eorAbsY .absoluteY (fun m s t => LoadsA (s.a ^^^ m) s t) ∧
  ReadsByte 0x41#8 .eorIndX .indexedIndirectX (fun m s t => LoadsA (s.a ^^^ m) s t) ∧
  ReadsByte 0x51#8 .eorIndY .indirectIndexedY (fun m s t => LoadsA (s.a ^^^ m) s t)

/-- 44_logical.md R603, both forms with their encodings. -/
def Obligations.BitTestsWithoutWritingA : Prop :=
  ReadsByte 0x24#8 .bitZp .zeroPage
    (fun m s t => t = { s with p := t.p } ∧ t.flag .z = decide (s.a &&& m = 0) ∧
      t.flag .n = decide (128 ≤ m.toNat) ∧ t.flag .v = decide (64 ≤ m.toNat % 128) ∧
      ∀ f, f ∉ [Flag.z, .n, .v] → t.flag f = s.flag f) ∧
  ReadsWord 0x2C#8 .bitAbs .absolute
    (fun m s t => t = { s with p := t.p } ∧ t.flag .z = decide (s.a &&& m = 0) ∧
      t.flag .n = decide (128 ≤ m.toNat) ∧ t.flag .v = decide (64 ≤ m.toNat % 128) ∧
      ∀ f, f ∉ [Flag.z, .n, .v] → t.flag f = s.flag f)

/-- 45_shift_rotate.md (ASL and ROL), every form with its encoding; the order of effects and the state after
a ROM fault are 92_eei_decisions.md D18 (the decision of the spec). Results are said in integers. -/
def Obligations.LeftShiftsMoveBit7ToCarry : Prop :=
  Does [0x0A#8] .aslAcc (ModifiesA (fun v _ => 2 * v) (fun v => decide (128 ≤ v))) ∧
  AtByte 0x06#8 .aslZp .zeroPage (Modifies (fun v _ => 2 * v) (some (fun v => decide (128 ≤ v)))) ∧
  AtByte 0x16#8 .aslZpX .zeroPageX
    (Modifies (fun v _ => 2 * v) (some (fun v => decide (128 ≤ v)))) ∧
  AtWord 0x0E#8 .aslAbs .absolute
    (Modifies (fun v _ => 2 * v) (some (fun v => decide (128 ≤ v)))) ∧
  AtWord 0x1E#8 .aslAbsX .absoluteX
    (Modifies (fun v _ => 2 * v) (some (fun v => decide (128 ≤ v)))) ∧
  Does [0x2A#8] .rolAcc (ModifiesA (fun v c => 2 * v + c) (fun v => decide (128 ≤ v))) ∧
  AtByte 0x26#8 .rolZp .zeroPage
    (Modifies (fun v c => 2 * v + c) (some (fun v => decide (128 ≤ v)))) ∧
  AtByte 0x36#8 .rolZpX .zeroPageX
    (Modifies (fun v c => 2 * v + c) (some (fun v => decide (128 ≤ v)))) ∧
  AtWord 0x2E#8 .rolAbs .absolute
    (Modifies (fun v c => 2 * v + c) (some (fun v => decide (128 ≤ v)))) ∧
  AtWord 0x3E#8 .rolAbsX .absoluteX
    (Modifies (fun v c => 2 * v + c) (some (fun v => decide (128 ≤ v))))

/-- 45_shift_rotate.md (LSR and ROR), every form with its encoding; the order of effects and the state after
a ROM fault are 92_eei_decisions.md D18 (the decision of the spec). Results are said in integers. -/
def Obligations.RightShiftsMoveBit0ToCarry : Prop :=
  Does [0x4A#8] .lsrAcc (ModifiesA (fun v _ => v / 2) (fun v => decide (v % 2 = 1))) ∧
  AtByte 0x46#8 .lsrZp .zeroPage
    (Modifies (fun v _ => v / 2) (some (fun v => decide (v % 2 = 1)))) ∧
  AtByte 0x56#8 .lsrZpX .zeroPageX
    (Modifies (fun v _ => v / 2) (some (fun v => decide (v % 2 = 1)))) ∧
  AtWord 0x4E#8 .lsrAbs .absolute
    (Modifies (fun v _ => v / 2) (some (fun v => decide (v % 2 = 1)))) ∧
  AtWord 0x5E#8 .lsrAbsX .absoluteX
    (Modifies (fun v _ => v / 2) (some (fun v => decide (v % 2 = 1)))) ∧
  Does [0x6A#8] .rorAcc (ModifiesA (fun v c => v / 2 + 128 * c) (fun v => decide (v % 2 = 1))) ∧
  AtByte 0x66#8 .rorZp .zeroPage
    (Modifies (fun v c => v / 2 + 128 * c) (some (fun v => decide (v % 2 = 1)))) ∧
  AtByte 0x76#8 .rorZpX .zeroPageX
    (Modifies (fun v c => v / 2 + 128 * c) (some (fun v => decide (v % 2 = 1)))) ∧
  AtWord 0x6E#8 .rorAbs .absolute
    (Modifies (fun v c => v / 2 + 128 * c) (some (fun v => decide (v % 2 = 1)))) ∧
  AtWord 0x7E#8 .rorAbsX .absoluteX
    (Modifies (fun v c => v / 2 + 128 * c) (some (fun v => decide (v % 2 = 1))))

/-- 46_compare_incdec.md R701, R702 and R703 with the helper of R700, every form with its encoding. -/
def Obligations.ComparesSetNoBorrowZeroAndSign : Prop :=
  Immediate 0xC9#8 .cmpImm (Compares State.a) ∧
  ReadsByte 0xC5#8 .cmpZp .zeroPage (Compares State.a) ∧
  ReadsByte 0xD5#8 .cmpZpX .zeroPageX (Compares State.a) ∧
  ReadsWord 0xCD#8 .cmpAbs .absolute (Compares State.a) ∧
  ReadsWord 0xDD#8 .cmpAbsX .absoluteX (Compares State.a) ∧
  ReadsWord 0xD9#8 .cmpAbsY .absoluteY (Compares State.a) ∧
  ReadsByte 0xC1#8 .cmpIndX .indexedIndirectX (Compares State.a) ∧
  ReadsByte 0xD1#8 .cmpIndY .indirectIndexedY (Compares State.a) ∧
  Immediate 0xE0#8 .cpxImm (Compares State.x) ∧
  ReadsByte 0xE4#8 .cpxZp .zeroPage (Compares State.x) ∧
  ReadsWord 0xEC#8 .cpxAbs .absolute (Compares State.x) ∧
  Immediate 0xC0#8 .cpyImm (Compares State.y) ∧
  ReadsByte 0xC4#8 .cpyZp .zeroPage (Compares State.y) ∧
  ReadsWord 0xCC#8 .cpyAbs .absolute (Compares State.y)

/-- 46_compare_incdec.md (INC and DEC), every form with its encoding; the state after a ROM fault is
92_eei_decisions.md D18 (the decision of the spec). C and V are unchanged. -/
def Obligations.IncAndDecModifyMemory : Prop :=
  AtByte 0xE6#8 .incZp .zeroPage (Modifies (fun v _ => v + 1) none) ∧
  AtByte 0xF6#8 .incZpX .zeroPageX (Modifies (fun v _ => v + 1) none) ∧
  AtWord 0xEE#8 .incAbs .absolute (Modifies (fun v _ => v + 1) none) ∧
  AtWord 0xFE#8 .incAbsX .absoluteX (Modifies (fun v _ => v + 1) none) ∧
  AtByte 0xC6#8 .decZp .zeroPage (Modifies (fun v _ => v + 255) none) ∧
  AtByte 0xD6#8 .decZpX .zeroPageX (Modifies (fun v _ => v + 255) none) ∧
  AtWord 0xCE#8 .decAbs .absolute (Modifies (fun v _ => v + 255) none) ∧
  AtWord 0xDE#8 .decAbsX .absoluteX (Modifies (fun v _ => v + 255) none)

/-- 46_compare_incdec.md R706 to R709 with their encodings. -/
def Obligations.IndexRegistersCountModulo256 : Prop :=
  Does [0xE8#8] .inx (fun s t => LoadsX (BitVec.ofNat 8 (s.x.toNat + 1)) s t) ∧
  Does [0xCA#8] .dex (fun s t => LoadsX (BitVec.ofNat 8 (s.x.toNat + 255)) s t) ∧
  Does [0xC8#8] .iny (fun s t => LoadsY (BitVec.ofNat 8 (s.y.toNat + 1)) s t) ∧
  Does [0x88#8] .dey (fun s t => LoadsY (BitVec.ofNat 8 (s.y.toNat + 255)) s t)

namespace Sys2Proof.Claims

open Sys2Proof.Machine

/-- A conditional branch on a flag: PC moves by the signed displacement, modulo 2^16, when the flag has
the value, and nothing else changes. -/
def Branches (op : Byte) (mk : Byte → Instr) (f : Flag) (taken : Bool) : Prop :=
  ∀ d : Byte, Does [op, d] (mk d) fun s t =>
    (s.flag f = taken →
      t = { s with pc := BitVec.ofInt 16 ((s.pc.toNat : Int) + signed d) }) ∧
    (s.flag f ≠ taken → t = s)

end Sys2Proof.Claims

/-- 47_branch_jump.md section "Conditional branches", the eight branches with their encodings; the wrap of
the target modulo 2^16 is 92_eei_decisions.md D15 (the decision of the spec). -/
def Obligations.BranchesFollowTheirFlag : Prop :=
  Branches 0x10#8 .bpl .n false ∧ Branches 0x30#8 .bmi .n true ∧
  Branches 0x50#8 .bvc .v false ∧ Branches 0x70#8 .bvs .v true ∧
  Branches 0x90#8 .bcc .c false ∧ Branches 0xB0#8 .bcs .c true ∧
  Branches 0xD0#8 .bne .z false ∧ Branches 0xF0#8 .beq .z true

/-- 47_branch_jump.md (JMP) with 41_addressing.md (Indirect; the form of the quirk is general knowledge of the
spec, G11): the indirect target reads its high byte within the page of
the pointer. -/
def Obligations.JmpReachesItsTarget : Prop :=
  (∀ w : Addr, Does [0x4C#8, loByte w, hiByte w] (.jmpAbs w) fun s t => t = { s with pc := w }) ∧
  ∀ w : Addr, Does [0x6C#8, loByte w, hiByte w] (.jmpInd w) fun s t =>
    t = { s with pc := wordAt s.mem w (BitVec.ofNat 16 (w.toNat / 256 * 256 + (w.toNat + 1) % 256)) }

/-- 47_branch_jump.md (JSR) with 92_eei_decisions.md D1, D2 and D3 (the decisions of the spec): the two
pushes, the jump, and the state at each fault. PC on entry is the address after the instruction, so the
pushed word is PC - 1. -/
def Obligations.JsrPushesTheReturnAddress : Prop :=
  ∀ w : Addr, Decodes [0x20#8, loByte w, hiByte w] (.jsr w) ∧ ∀ s : State,
    let hi := BitVec.ofNat 8 ((s.pc - 1).toNat / 256)
    let lo := BitVec.ofNat 8 ((s.pc - 1).toNat % 256)
    let one := pushed hi s
    (RoomToPush 2 s → Writable s (stackByte s.sp) → Writable s (stackByte (s.sp - 1)) →
      exec (.jsr w) s = .next { pushed lo one with pc := w }) ∧
    (¬RoomToPush 1 s → exec (.jsr w) s = .next (halted .stackOverflow s)) ∧
    (RoomToPush 1 s → ¬Writable s (stackByte s.sp) →
      exec (.jsr w) s = .next (halted (.romViolation (stackByte s.sp)) s)) ∧
    (RoomToPush 1 s → ¬RoomToPush 2 s → Writable s (stackByte s.sp) →
      exec (.jsr w) s = .next (halted .stackOverflow one)) ∧
    (RoomToPush 2 s → Writable s (stackByte s.sp) → ¬Writable s (stackByte (s.sp - 1)) →
      exec (.jsr w) s = .next (halted (.romViolation (stackByte (s.sp - 1))) one))

/-- 47_branch_jump.md (RTS) with 92_eei_decisions.md D1, D2 and D3 (the decisions of the spec). -/
def Obligations.RtsPullsAndAddsOne : Prop :=
  Decodes [0x60#8] .rts ∧ ∀ s : State,
    (RoomToPull 2 s → exec .rts s = .next { s with
      sp := s.sp + 2
      pc := wordAt s.mem (stackByte (s.sp + 1)) (stackByte (s.sp + 2)) + 1 }) ∧
    (¬RoomToPull 1 s → exec .rts s = .next (halted .stackUnderflow s)) ∧
    (RoomToPull 1 s → ¬RoomToPull 2 s →
      exec .rts s = .next (halted .stackUnderflow { s with sp := s.sp + 1 }))

/-- 47_branch_jump.md (RTI) with 92_eei_decisions.md D1, D2 and D3 (the decisions of the spec): P in full,
then PC with no increment; a fault on a later pull leaves P loaded. -/
def Obligations.RtiRestoresStatusAndPc : Prop :=
  Decodes [0x40#8] .rti ∧ ∀ s : State,
    let p := s.mem.read (stackByte (s.sp + 1))
    (RoomToPull 3 s → exec .rti s = .next { s with
      p := p
      sp := s.sp + 3
      pc := wordAt s.mem (stackByte (s.sp + 2)) (stackByte (s.sp + 3)) }) ∧
    (¬RoomToPull 1 s → exec .rti s = .next (halted .stackUnderflow s)) ∧
    (RoomToPull 1 s → ¬RoomToPull 2 s →
      exec .rti s = .next (halted .stackUnderflow { s with p := p, sp := s.sp + 1 })) ∧
    (RoomToPull 2 s → ¬RoomToPull 3 s →
      exec .rti s = .next (halted .stackUnderflow { s with p := p, sp := s.sp + 2 }))

/-- 49_control.md (BRK) with 92_eei_decisions.md D1, D2, D3 and D7 (the decisions of the spec). PC on entry
is the address after the one opcode byte, so the pushed word, BRK plus 2, is PC + 1. -/
def Obligations.BrkEntersTheTrap : Prop :=
  Decodes [0x00#8] .brk ∧ ∀ s : State,
    let hi := BitVec.ofNat 8 ((s.pc + 1).toNat / 256)
    let lo := BitVec.ofNat 8 ((s.pc + 1).toNat % 256)
    let one := pushed hi s
    let two := pushed lo one
    let three := pushed (s.p ||| 0x30#8) two
    (RoomToPush 3 s → Writable s (stackByte s.sp) → Writable s (stackByte (s.sp - 1)) →
      Writable s (stackByte (s.sp - 2)) → ∃ t, exec .brk s = .next t ∧
        t = { three with p := t.p, pc := wordAt three.mem 0xFFFE#16 0xFFFF#16 } ∧
        t.flag .i = true ∧ ∀ f, f ≠ .i → t.flag f = s.flag f) ∧
    (¬RoomToPush 1 s → exec .brk s = .next (halted .stackOverflow s)) ∧
    (RoomToPush 1 s → ¬RoomToPush 2 s → Writable s (stackByte s.sp) →
      exec .brk s = .next (halted .stackOverflow one)) ∧
    (RoomToPush 2 s → ¬RoomToPush 3 s → Writable s (stackByte s.sp) →
      Writable s (stackByte (s.sp - 1)) → exec .brk s = .next (halted .stackOverflow two)) ∧
    (RoomToPush 1 s → ¬Writable s (stackByte s.sp) →
      exec .brk s = .next (halted (.romViolation (stackByte s.sp)) s)) ∧
    (RoomToPush 2 s → Writable s (stackByte s.sp) → ¬Writable s (stackByte (s.sp - 1)) →
      exec .brk s = .next (halted (.romViolation (stackByte (s.sp - 1))) one)) ∧
    (RoomToPush 3 s → Writable s (stackByte s.sp) → Writable s (stackByte (s.sp - 1)) →
      ¬Writable s (stackByte (s.sp - 2)) →
      exec .brk s = .next (halted (.romViolation (stackByte (s.sp - 2))) two))

/-- 47_branch_jump.md (the last byte of the JSR is pushed and RTS adds one) with 92_eei_decisions.md D1 (the
decision of the spec): a subroutine that keeps S and its stack bytes returns to the instruction after
the JSR. The memory is canonical, as `StepKeepsCanonicalMemory` keeps it. -/
def Obligations.RtsReturnsAfterJsr : Prop :=
  ∀ (w : Addr) (s t : State), s.WellFormed → s.fault = none → exec (.jsr w) s = .next t →
    t.fault = none → ∀ entry : State, entry.mem = t.mem → entry.sp = t.sp → entry.cfg = t.cfg →
    exec .rts entry = .next { entry with sp := s.sp, pc := s.pc }

/-- 60_exceptions.md section 4 (trap entry and return) with 92_eei_decisions.md D1 (the decision of the
spec): RTI restores the P that BRK pushed, so I has its value before the BRK, and continues at BRK plus
2. -/
def Obligations.RtiReturnsAfterBrk : Prop :=
  ∀ s t : State, s.WellFormed → s.fault = none → exec .brk s = .next t → t.fault = none →
    ∀ entry : State, entry.mem = t.mem → entry.sp = t.sp → entry.cfg = t.cfg →
    exec .rti entry =
      .next { entry with sp := s.sp, p := s.p ||| 0x30#8, pc := s.pc + 1 }

/-- 48_stack_flag.md (PHA and PHP) with 92_eei_decisions.md D1, D2, D3 and D19 (the decisions of the spec):
the stack check comes before the ROM check. -/
def Obligations.PhaAndPhpPushOneByte : Prop :=
  Decodes [0x48#8] .pha ∧ Decodes [0x08#8] .php ∧ ∀ s : State,
    (RoomToPush 1 s → Writable s (stackByte s.sp) →
      exec .pha s = .next (pushed s.a s) ∧ exec .php s = .next (pushed (s.p ||| 0x30#8) s)) ∧
    (¬RoomToPush 1 s → exec .pha s = .next (halted .stackOverflow s) ∧
      exec .php s = .next (halted .stackOverflow s)) ∧
    (RoomToPush 1 s → ¬Writable s (stackByte s.sp) →
      exec .pha s = .next (halted (.romViolation (stackByte s.sp)) s) ∧
      exec .php s = .next (halted (.romViolation (stackByte s.sp)) s))

/-- 48_stack_flag.md (PLA and PLP) with 92_eei_decisions.md D1, D2 and D14 (the decisions of the spec). -/
def Obligations.PlaAndPlpPullOneByte : Prop :=
  Decodes [0x68#8] .pla ∧ Decodes [0x28#8] .plp ∧ ∀ s : State,
    let v := s.mem.read (stackByte (s.sp + 1))
    (RoomToPull 1 s → (∃ t, exec .pla s = .next t ∧
        t = { s with a := v, sp := s.sp + 1, p := t.p } ∧ NZFrom v [] s t) ∧
      exec .plp s = .next { s with p := v, sp := s.sp + 1 }) ∧
    (¬RoomToPull 1 s → exec .pla s = .next (halted .stackUnderflow s) ∧
      exec .plp s = .next (halted .stackUnderflow s))

/-- 40_sequencer.md R422: with `STACK_WRAP` neither check fires; a push at S = 0x00 writes 0x0100 and leaves
S = 0xFF, a pull at S = 0xFF leaves S = 0x00 and reads 0x0100, and the stack never leaves page 1. -/
def Obligations.StackWrapsWithoutFaults : Prop :=
  ∀ s t : State, s.cfg.stackWrap = true →
    (step s = .next t → t.fault ≠ some .stackOverflow ∧ t.fault ≠ some .stackUnderflow) ∧
    (s.sp = 0x00#8 → Writable s 0x0100#16 →
      exec .pha s = .next { s with mem := s.mem.write 0x0100#16 s.a, sp := 0xFF#8 } ∧
      exec .php s = .next { s with mem := s.mem.write 0x0100#16 (s.p ||| 0x30#8), sp := 0xFF#8 }) ∧
    (s.sp = 0xFF#8 → exec .plp s = .next { s with p := s.mem.read 0x0100#16, sp := 0x00#8 } ∧
      ∃ u, exec .pla s = .next u ∧
        u = { s with a := s.mem.read 0x0100#16, sp := 0x00#8, p := u.p }) ∧
    ∀ sp : Byte, 256 ≤ (stackAddr sp).toNat ∧ (stackAddr sp).toNat ≤ 511

/-- 48_stack_flag.md R810 to R816 with their encodings. -/
def Obligations.FlagOperationsWriteOneFlag : Prop :=
  Does [0x18#8] .clc (WritesFlag .c false) ∧ Does [0x38#8] .sec (WritesFlag .c true) ∧
  Does [0x58#8] .cli (WritesFlag .i false) ∧ Does [0x78#8] .sei (WritesFlag .i true) ∧
  Does [0xD8#8] .cld (WritesFlag .d false) ∧ Does [0xF8#8] .sed (WritesFlag .d true) ∧
  Does [0xB8#8] .clv (WritesFlag .v false)

/-- 49_control.md R851 with its encoding; the advance of PC is made by the step. -/
def Obligations.NopChangesNothing : Prop :=
  Does [0xEA#8] .nop (fun s t => t = s) ∧
  ∀ s : State, s.fault = none → s.mem.read s.pc = 0xEA#8 → step s = .next { s with pc := s.pc + 1 }

/-- 70_reset_and_hazards.md section 1 with 92_eei_decisions.md D9 to D12 (the decisions of the spec): the
three sources of PC in their order, S and P from the configuration, the fault cleared, A, X, Y and
memory kept. -/
def Obligations.ResetLoadsPcSpAndP : Prop :=
  ∀ (cfg : Config) (override : Option Addr) (s : State),
    let pc := match override, cfg.resetPc with
      | some pc, _ => pc
      | none, some pc => pc
      | none, none => wordAt s.mem 0xFFFC#16 0xFFFD#16
    resetWith cfg override s =
      { s with pc := pc, sp := cfg.resetSp, p := cfg.resetP, fault := none, cfg := cfg }

/-- 70_reset_and_hazards.md section 1 (before the first reset) with 92_eei_decisions.md D13 (the decision of
the spec): a step before the first reset is refused; the first reset leaves A, X and Y at any values at
all; and `State.reset` is one such state, on empty memory, with A, X and Y zero, which is the choice of
the model (log 2, log 3). -/
def Obligations.FirstResetLeavesRegistersArbitrary : Prop :=
  (∀ (mem : Memory) (n : Nat), hostSteps n (.neverReset mem) = .error .neverReset) ∧
  (∀ (cfg : Config) (override : Option Addr) (a x y : Byte) (mem : Memory), ∃ t,
    hostReset cfg override a x y (.neverReset mem) = .live t ∧ t.a = a ∧ t.x = x ∧ t.y = y ∧
    t.mem = mem ∧ t.sp = cfg.resetSp ∧ t.p = cfg.resetP ∧ t.fault = none ∧ t.cfg = cfg) ∧
  hostReset Config.default none 0 0 0 (.neverReset []) = .live State.reset ∧
  State.reset.sp = 0xFD#8 ∧ State.reset.p = 0x24#8 ∧ State.reset.pc = 0x0400#16

/-- The loading of a table word that stands for the host loading a program (log 6; 60_exceptions.md section
7): the very next step runs the instruction the Decoder reads from the word. Memory is canonical, as
`StepKeepsCanonicalMemory` keeps it. -/
def Obligations.LoadedWordRunsNext : Prop :=
  ∀ (s : State) (nbits w : Nat) (i : Instr), s.WellFormed → decodeTableWord nbits w = some i →
    step (s.withFetchWord nbits w) = exec i (advance i (s.withFetchWord nbits w)) ∧
    (s.withFetchWord nbits w).WellFormed ∧ (s.withFetchWord nbits w).pc = s.pc

namespace Sys2Proof.Claims

open Sys2Proof.Machine

/-- A run goes from a state, with the states it has passed, latest first, to another over states none of
which ends it (60_exceptions.md R961). -/
inductive RunsOn (exitPc : Option Addr) (detector : DeadLoopDetector) (bound : Nat) :
    List State → State → List State → State → Prop where
  | refl (past : List State) (s : State) : RunsOn exitPc detector bound past s past s
  | step {past past' : List State} {s u t : State} :
    runEnd exitPc detector bound past s = none → step s = .next u →
      RunsOn exitPc detector bound (s :: past) u past' t → RunsOn exitPc detector bound past s past' t

end Sys2Proof.Claims

/-- 60_exceptions.md section 7 (the end of a run) with 92_eei_decisions.md D23 (the decision of the spec), for
every exit address, detector and iteration bound. A run ends at a recorded fault, at the exit address or
where the dead-loop detector fires, and the last two are successful; a fault goes before the others,
which is the reading of the model, and the exit address goes before the detector, which is its choice
(log 15). The observation of `n` steps ends exactly where a
run of at most `n` steps over states none of which ends it reaches a state that does. A JMP to
itself ends no run without an exit address and a detector; with the detector of self-jumps (an example
of the model, log 15) it ends after as many iterations as the bound says, and not after fewer. -/
def Obligations.RunsEndAtTheFirstOfTheThreeConditions : Prop :=
  (∀ (exitPc : Option Addr) (detector : DeadLoopDetector) (bound : Nat) (past : List State) (s : State),
    (∀ f, runEnd exitPc detector bound past s = some (.faulted f) ↔ s.fault = some f) ∧
    (runEnd exitPc detector bound past s = some .exited ↔ s.fault = none ∧ exitPc = some s.pc) ∧
    (runEnd exitPc detector bound past s = some .deadLoop ↔
      s.fault = none ∧ exitPc ≠ some s.pc ∧ detector bound past s = true) ∧
    ∀ (n : Nat) (e : RunEnd) (t : State),
      observe exitPc detector bound n past s = some (e, t) ↔
        ∃ past' : List State, past'.length ≤ past.length + n ∧
          RunsOn exitPc detector bound past s past' t ∧
          runEnd exitPc detector bound past' t = some e) ∧
  (∀ e : RunEnd, e.successful = true ↔ e = .exited ∨ e = .deadLoop) ∧
  ∀ s : State, s.fault = none →
    decode [s.mem.read s.pc, s.mem.read (s.pc + 1), s.mem.read (s.pc + 2)] = .ok (.jmpAbs s.pc, []) →
    step s = .next s ∧
    (∀ n bound, observe none (fun _ _ _ => false) bound n [] s = none) ∧
    ∀ bound, observe none selfLoopDetector bound bound [] s = some (.deadLoop, s) ∧
      ∀ n, n < bound → observe none selfLoopDetector bound n [] s = none
end

