-- ==== Sys2Proof/Laws/Flags.lean ====
section
/-! SUPPORT. The laws of the status byte: a flag written reads back, and every other flag is kept
(10_state.md R112). -/

namespace Sys2Proof.Machine

theorem Flag.bit_lt (f : Flag) : f.bit < 8 := by cases f <;> decide

theorem Flag.bit_inj (f g : Flag) (h : f.bit = g.bit) : f = g := by
  cases f <;> cases g <;> first | rfl | (exact absurd h (by decide))

theorem getFlag_mask (f g : Flag) : getFlag f.mask g = decide (g = f) := by
  cases f <;> cases g <;> decide

theorem getFlag_putFlag (p : Byte) (f g : Flag) (b : Bool) :
    getFlag (putFlag p f b) g = if g = f then b else getFlag p g := by
  have hg := g.bit_lt
  have hm : f.mask.getLsbD g.bit = decide (g = f) := getFlag_mask f g
  cases b
  · simp only [putFlag, getFlag, Bool.false_eq_true, if_false, BitVec.getLsbD_and,
      BitVec.getLsbD_not, hm, hg]
    by_cases h : g = f <;> simp [h]
  · simp only [putFlag, getFlag, if_true, BitVec.getLsbD_or, hm]
    by_cases h : g = f <;> simp [h]

@[simp] theorem getFlag_putFlag_same (p : Byte) (f : Flag) (b : Bool) :
    getFlag (putFlag p f b) f = b := by simp [getFlag_putFlag]

theorem getFlag_putFlag_other (p : Byte) (f g : Flag) (b : Bool) (h : g ≠ f) :
    getFlag (putFlag p f b) g = getFlag p g := by simp [getFlag_putFlag, h]

/-- Two status bytes with the same flags are the same byte. -/
theorem status_ext (p q : Byte) (h : ∀ f, getFlag p f = getFlag q f) : p = q := by
  apply BitVec.eq_of_getLsbD_eq
  intro i hi
  match i, hi with
  | 0, _ => exact h .c
  | 1, _ => exact h .z
  | 2, _ => exact h .i
  | 3, _ => exact h .d
  | 4, _ => exact h .b
  | 5, _ => exact h .u
  | 6, _ => exact h .v
  | 7, _ => exact h .n

theorem State.flag_setFlag (s : State) (f g : Flag) (b : Bool) :
    (s.setFlag f b).flag g = if g = f then b else s.flag g := by
  simp [State.flag, getFlag_putFlag]

/-- `SetNZ` writes N and Z and no other flag (40_sequencer.md R425). -/
theorem flag_setNZ (v : Byte) (s : State) (g : Flag) :
    (setNZ v s).flag g =
      if g = .z then v == 0x00#8 else if g = .n then bit7 v else s.flag g := by
  simp [State.flag, getFlag_putFlag]

/-- `Compare` writes C, Z and N and no other flag (46_compare_incdec.md R700). -/
theorem flag_compare (r m : Byte) (s : State) (g : Flag) :
    (compare r m s).flag g =
      if g = .n then bit7 (r - m) else if g = .z then r == m
      else if g = .c then decide (m.toNat ≤ r.toNat) else s.flag g := by
  simp [compare, State.flag, getFlag_putFlag]

end Sys2Proof.Machine
end

