-- ==== Sys2Proof/Laws/Memory.lean ====
section
/-! SUPPORT. The laws of memory: a write leaves every other byte alone, a read after a write gives the
byte written, and every memory operation keeps the canonical form. -/

namespace Sys2Proof.Machine

theorem Memory.read_write_other (m : Memory) (p q : Addr) (v : Byte) (h : q ≠ p) :
    (m.write p v).read q = m.read q := by
  have hn : p.toNat ≠ q.toNat := fun e => h (BitVec.eq_of_toNat_eq e.symm)
  induction m with
  | nil => unfold Memory.write; split <;> simp_all [Memory.read]
  | cons c rest ih =>
    obtain ⟨k, w⟩ := c
    unfold Memory.write
    split
    · split <;> simp_all [Memory.read]
    · split
      · split <;> simp_all [Memory.read]
      · simp [Memory.read, ih]

/-- A canonical list from a bound on holds nothing below it. -/
theorem Memory.read_of_wfFrom (m : Memory) (lo : Nat) (p : Addr) (h : Memory.wfFrom lo m = true)
    (hp : p.toNat < lo) : m.read p = Memory.unlisted := by
  induction m generalizing lo with
  | nil => rfl
  | cons c rest ih =>
    obtain ⟨k, w⟩ := c
    simp only [Memory.wfFrom, Bool.and_eq_true, decide_eq_true_eq] at h
    have : k ≠ p.toNat := by omega
    simp [Memory.read, this, ih (k + 1) h.2 (by omega)]

theorem Memory.wfFrom_mono (m : Memory) (lo lo' : Nat) (h : Memory.wfFrom lo m = true) (hl : lo' ≤ lo) :
    Memory.wfFrom lo' m = true := by
  cases m with
  | nil => rfl
  | cons c rest =>
    obtain ⟨k, w⟩ := c
    simp only [Memory.wfFrom, Bool.and_eq_true, decide_eq_true_eq] at h ⊢
    exact ⟨⟨⟨by omega, h.1.1.2⟩, h.1.2⟩, h.2⟩

theorem Memory.read_write_same_from (m : Memory) (lo : Nat) (p : Addr) (v : Byte)
    (h : Memory.wfFrom lo m = true) : (m.write p v).read p = v := by
  induction m generalizing lo with
  | nil => unfold Memory.write; split <;> simp_all [Memory.read]
  | cons c rest ih =>
    obtain ⟨k, w⟩ := c
    have hr := h
    simp only [Memory.wfFrom, Bool.and_eq_true, decide_eq_true_eq] at h
    unfold Memory.write
    split
    · split
      · next hk hv =>
        subst hv
        exact Memory.read_of_wfFrom _ k p
          (by simpa only [Memory.wfFrom, Bool.and_eq_true, decide_eq_true_eq] using
            ⟨⟨⟨Nat.le_refl k, h.1.1.2⟩, h.1.2⟩, h.2⟩) hk
      · simp [Memory.read]
    · split
      · next hk =>
        split
        · next hv =>
          subst hv
          exact Memory.read_of_wfFrom _ (k + 1) p h.2 (by omega)
        · simp [Memory.read, hk]
      · next hk =>
        have : k ≠ p.toNat := fun e => hk e.symm
        simp [Memory.read, this, ih (k + 1) h.2]

/-- A read after a write to the same address gives the byte written, on canonical memory. -/
theorem Memory.read_write_same (m : Memory) (p : Addr) (v : Byte) (h : m.wf = true) :
    (m.write p v).read p = v :=
  Memory.read_write_same_from m 0 p v h

theorem Memory.write_wfFrom (m : Memory) (lo : Nat) (p : Addr) (v : Byte)
    (h : Memory.wfFrom lo m = true) (hp : lo ≤ p.toNat) : Memory.wfFrom lo (m.write p v) = true := by
  have hlt := p.isLt
  induction m generalizing lo with
  | nil =>
    unfold Memory.write
    split
    · rfl
    · next hv => simp [Memory.wfFrom, hp, hlt, hv]
  | cons c rest ih =>
    obtain ⟨k, w⟩ := c
    have hr := h
    simp only [Memory.wfFrom, Bool.and_eq_true, decide_eq_true_eq] at h
    obtain ⟨⟨⟨h1, h2⟩, h3⟩, h4⟩ := h
    unfold Memory.write
    split
    · next hk =>
      split
      · exact hr
      · next hv =>
        simp only [Memory.wfFrom, Bool.and_eq_true, decide_eq_true_eq]
        exact ⟨⟨⟨hp, hlt⟩, hv⟩, ⟨⟨by omega, h2⟩, h3⟩, h4⟩
    · split
      · split
        · exact Memory.wfFrom_mono rest (k + 1) lo h4 (by omega)
        · next hv =>
          simp only [Memory.wfFrom, Bool.and_eq_true, decide_eq_true_eq]
          exact ⟨⟨⟨h1, h2⟩, hv⟩, h4⟩
      · simp only [Memory.wfFrom, Bool.and_eq_true, decide_eq_true_eq]
        exact ⟨⟨⟨h1, h2⟩, h3⟩, ih (k + 1) h4 (by omega)⟩

/-- A write keeps the canonical form. -/
theorem Memory.write_wf (m : Memory) (p : Addr) (v : Byte) (h : m.wf = true) :
    (m.write p v).wf = true :=
  Memory.write_wfFrom m 0 p v h (Nat.zero_le _)

/-- Host loading keeps the canonical form. -/
theorem Memory.load_wf (bytes : List Byte) (m : Memory) (p : Addr) (h : m.wf = true) :
    (m.load p bytes).wf = true := by
  induction bytes generalizing m p with
  | nil => exact h
  | cons v rest ih => exact ih (m.write p v) (p + 1) (m.write_wf p v h)

@[simp] theorem Memory.read_nil (p : Addr) : Memory.read [] p = Memory.unlisted := rfl

theorem Memory.wf_nil : Memory.wf [] = true := rfl

end Sys2Proof.Machine
end

