-- ==== Sys2Proof/Laws/Ops.lean ====
section
/-! SUPPORT. Once for each shared operation: everything it can do when it answers a next state. -/

namespace Sys2Proof.Machine

variable {s t : State} {rest : Rest}

theorem memWrite_ok (addr : Addr) (v : Byte) (h : inRom s addr = false) :
    memWrite addr v s rest = rest (s.setMem (s.mem.write addr v)) := by simp [memWrite, h]

theorem memWrite_rom (addr : Addr) (v : Byte) (h : inRom s addr = true) :
    memWrite addr v s rest = .next (raise (.romViolation addr) s) := by simp [memWrite, h]

/-- What a memory write can do (20_memory.md R202). -/
theorem memWrite_cases {addr : Addr} {v : Byte} (h : memWrite addr v s rest = .next t) :
    (inRom s addr = true ∧ t = raise (.romViolation addr) s) ∨
    (inRom s addr = false ∧ rest (s.setMem (s.mem.write addr v)) = .next t) := by
  cases hr : inRom s addr with
  | true => rw [memWrite_rom addr v hr] at h; cases h; exact .inl ⟨rfl, rfl⟩
  | false => rw [memWrite_ok addr v hr] at h; exact .inr ⟨rfl, h⟩

theorem push_ok (v : Byte) (h : pushOverflows s = false) (hr : inRom s (stackAddr s.sp) = false) :
    push v s rest = rest ((s.setMem (s.mem.write (stackAddr s.sp) v)).setSp (s.sp - 1)) := by
  simp [push, h, memWrite_ok _ _ hr]

theorem push_overflow (v : Byte) (h : pushOverflows s = true) :
    push v s rest = .next (raise .stackOverflow s) := by simp [push, h]

/-- What a push can do (40_sequencer.md R420). -/
theorem push_cases {v : Byte} (h : push v s rest = .next t) :
    (pushOverflows s = true ∧ t = raise .stackOverflow s) ∨
    (pushOverflows s = false ∧ inRom s (stackAddr s.sp) = true ∧
      t = raise (.romViolation (stackAddr s.sp)) s) ∨
    (pushOverflows s = false ∧ inRom s (stackAddr s.sp) = false ∧
      rest ((s.setMem (s.mem.write (stackAddr s.sp) v)).setSp (s.sp - 1)) = .next t) := by
  cases ho : pushOverflows s with
  | true => rw [push_overflow v ho] at h; cases h; exact .inl ⟨rfl, rfl⟩
  | false =>
    rw [push, if_neg (by simp [ho])] at h
    rcases memWrite_cases h with ⟨hr, ht⟩ | ⟨hr, ht⟩
    · exact .inr (.inl ⟨rfl, hr, ht⟩)
    · exact .inr (.inr ⟨rfl, hr, ht⟩)

theorem pull_ok {k : Byte → Rest} (h : pullUnderflows s = false) :
    pull s k = k (memRead s (stackAddr (s.sp + 1))) (s.setSp (s.sp + 1)) := by simp [pull, h]

theorem pull_underflow {k : Byte → Rest} (h : pullUnderflows s = true) :
    pull s k = .next (raise .stackUnderflow s) := by simp [pull, h]

/-- What a pull can do (40_sequencer.md R421). -/
theorem pull_cases {k : Byte → Rest} (h : pull s k = .next t) :
    (pullUnderflows s = true ∧ t = raise .stackUnderflow s) ∨
    (pullUnderflows s = false ∧
      k (memRead s (stackAddr (s.sp + 1))) (s.setSp (s.sp + 1)) = .next t) := by
  cases hu : pullUnderflows s with
  | true => rw [pull_underflow hu] at h; cases h; exact .inl ⟨rfl, rfl⟩
  | false => rw [pull_ok hu] at h; exact .inr ⟨rfl, h⟩

theorem pushOverflows_iff : pushOverflows s = true ↔ s.cfg.stackWrap = false ∧ s.sp = 0x00#8 := by
  simp [pushOverflows]

theorem pullUnderflows_iff : pullUnderflows s = true ↔ s.cfg.stackWrap = false ∧ s.sp = 0xFF#8 := by
  simp [pullUnderflows]

theorem inRom_iff (addr : Addr) : inRom s addr = true ↔ s.cfg.romStart.toNat ≤ addr.toNat := by
  simp [inRom]

/-- The address of a stack byte as a number (10_state.md R105). -/
theorem stackAddr_toNat (sp : Byte) : (stackAddr sp).toNat = 256 + sp.toNat := by
  have h := sp.isLt
  have : ∀ v : Byte, (stackAddr v).toNat = 256 + v.toNat := by decide
  exact this sp

theorem stackAddr_inj (p q : Byte) (h : stackAddr p = stackAddr q) : p = q := by
  have := congrArg BitVec.toNat h
  rw [stackAddr_toNat, stackAddr_toNat] at this
  exact BitVec.eq_of_toNat_eq (by omega)

end Sys2Proof.Machine
end

