-- ==== Sys2Proof/Laws/Step.lean ====
section
/-! SUPPORT. What a step can do, once: it is taken by a running machine, and either takes an illegal
opcode or runs the fetched instruction. -/

namespace Sys2Proof.Machine

theorem step_halted {s : State} {f : Fault} (h : s.fault = some f) : step s = .fault f := by
  simp [step, h]

/-- Everything a step that answers a next state can be (40_sequencer.md R402). -/
theorem step_cases {s t : State} (h : step s = .next t) :
    s.fault = none ∧
      ((fetch s = none ∧ t = takeIllegalOpcode s) ∨
        ∃ i, fetch s = some i ∧ exec i (advance i s) = .next t) := by
  unfold step at h
  cases hf : s.fault with
  | some f => simp [hf] at h
  | none =>
    refine ⟨rfl, ?_⟩
    simp only [hf] at h
    cases hi : fetch s with
    | none =>
      simp only [hi] at h
      cases h
      exact .inl ⟨rfl, rfl⟩
    | some i =>
      simp only [hi] at h
      exact .inr ⟨i, rfl, h⟩

/-- The state after reset is a running, canonical one. -/
theorem reset_running : State.reset.Running := rfl

end Sys2Proof.Machine
end

