-- ==== Sys2Proof/Laws/ByRule.lean ====
section
/-! SUPPORT. Case analysis on an executed instruction by the rule it runs and not by the row of the opcode
table: one case for each of the 56 mnemonics, the operand left general. -/

namespace Sys2Proof.Machine

/-- A property of an instruction and the states before and after it, shown once for each rule. -/
structure ByRule (P : Instr → State → State → Prop) : Prop where
  lda : ∀ i src s t, i.op = .lda → (∀ m, memOperandOf i = some m ↔ src = .mem m) →
    ruleLda src s = .next t → P i s t
  ldx : ∀ i src s t, i.op = .ldx → (∀ m, memOperandOf i = some m ↔ src = .mem m) →
    ruleLdx src s = .next t → P i s t
  ldy : ∀ i src s t, i.op = .ldy → (∀ m, memOperandOf i = some m ↔ src = .mem m) →
    ruleLdy src s = .next t → P i s t
  adc : ∀ i src s t, i.op = .adc → (∀ m, memOperandOf i = some m ↔ src = .mem m) →
    ruleAdc src s = .next t → P i s t
  sbc : ∀ i src s t, i.op = .sbc → (∀ m, memOperandOf i = some m ↔ src = .mem m) →
    ruleSbc src s = .next t → P i s t
  and : ∀ i src s t, i.op = .and → (∀ m, memOperandOf i = some m ↔ src = .mem m) →
    ruleAnd src s = .next t → P i s t
  ora : ∀ i src s t, i.op = .ora → (∀ m, memOperandOf i = some m ↔ src = .mem m) →
    ruleOra src s = .next t → P i s t
  eor : ∀ i src s t, i.op = .eor → (∀ m, memOperandOf i = some m ↔ src = .mem m) →
    ruleEor src s = .next t → P i s t
  cmp : ∀ i src s t, i.op = .cmp → (∀ m, memOperandOf i = some m ↔ src = .mem m) →
    ruleCmp src s = .next t → P i s t
  cpx : ∀ i src s t, i.op = .cpx → (∀ m, memOperandOf i = some m ↔ src = .mem m) →
    ruleCpx src s = .next t → P i s t
  cpy : ∀ i src s t, i.op = .cpy → (∀ m, memOperandOf i = some m ↔ src = .mem m) →
    ruleCpy src s = .next t → P i s t
  sta : ∀ i m s t, i.op = .sta → memOperandOf i = some m → ruleSta m s = .next t → P i s t
  stx : ∀ i m s t, i.op = .stx → memOperandOf i = some m → ruleStx m s = .next t → P i s t
  sty : ∀ i m s t, i.op = .sty → memOperandOf i = some m → ruleSty m s = .next t → P i s t
  bit : ∀ i m s t, i.op = .bit → memOperandOf i = some m → ruleBit m s = .next t → P i s t
  inc : ∀ i m s t, i.op = .inc → memOperandOf i = some m → ruleInc m s = .next t → P i s t
  dec : ∀ i m s t, i.op = .dec → memOperandOf i = some m → ruleDec m s = .next t → P i s t
  asl : ∀ i tgt s t, i.op = .asl → (∀ m, memOperandOf i = some m ↔ tgt = .mem m) →
    (tgt = .acc → i = .aslAcc) → ruleAsl tgt s = .next t → P i s t
  lsr : ∀ i tgt s t, i.op = .lsr → (∀ m, memOperandOf i = some m ↔ tgt = .mem m) →
    (tgt = .acc → i = .lsrAcc) → ruleLsr tgt s = .next t → P i s t
  rol : ∀ i tgt s t, i.op = .rol → (∀ m, memOperandOf i = some m ↔ tgt = .mem m) →
    (tgt = .acc → i = .rolAcc) → ruleRol tgt s = .next t → P i s t
  ror : ∀ i tgt s t, i.op = .ror → (∀ m, memOperandOf i = some m ↔ tgt = .mem m) →
    (tgt = .acc → i = .rorAcc) → ruleRor tgt s = .next t → P i s t
  bpl : ∀ d s t, branch (!s.flag .n) d s = .next t → P (.bpl d) s t
  bmi : ∀ d s t, branch (s.flag .n) d s = .next t → P (.bmi d) s t
  bvc : ∀ d s t, branch (!s.flag .v) d s = .next t → P (.bvc d) s t
  bvs : ∀ d s t, branch (s.flag .v) d s = .next t → P (.bvs d) s t
  bcc : ∀ d s t, branch (!s.flag .c) d s = .next t → P (.bcc d) s t
  bcs : ∀ d s t, branch (s.flag .c) d s = .next t → P (.bcs d) s t
  bne : ∀ d s t, branch (!s.flag .z) d s = .next t → P (.bne d) s t
  beq : ∀ d s t, branch (s.flag .z) d s = .next t → P (.beq d) s t
  jmpAbs : ∀ w s t, ruleJmp w s = .next t → P (.jmpAbs w) s t
  jmpInd : ∀ w s t, ruleJmp (indirectTarget w s) s = .next t → P (.jmpInd w) s t
  jsr : ∀ w s t, execJsr w s = .next t → P (.jsr w) s t
  tax : ∀ s t, execTax s = .next t → P .tax s t
  tay : ∀ s t, execTay s = .next t → P .tay s t
  txa : ∀ s t, execTxa s = .next t → P .txa s t
  tya : ∀ s t, execTya s = .next t → P .tya s t
  inx : ∀ s t, execInx s = .next t → P .inx s t
  dex : ∀ s t, execDex s = .next t → P .dex s t
  iny : ∀ s t, execIny s = .next t → P .iny s t
  dey : ∀ s t, execDey s = .next t → P .dey s t
  rts : ∀ s t, execRts s = .next t → P .rts s t
  rti : ∀ s t, execRti s = .next t → P .rti s t
  pha : ∀ s t, execPha s = .next t → P .pha s t
  pla : ∀ s t, execPla s = .next t → P .pla s t
  php : ∀ s t, execPhp s = .next t → P .php s t
  plp : ∀ s t, execPlp s = .next t → P .plp s t
  tsx : ∀ s t, execTsx s = .next t → P .tsx s t
  txs : ∀ s t, execTxs s = .next t → P .txs s t
  clc : ∀ s t, execClc s = .next t → P .clc s t
  sec : ∀ s t, execSec s = .next t → P .sec s t
  cli : ∀ s t, execCli s = .next t → P .cli s t
  sei : ∀ s t, execSei s = .next t → P .sei s t
  cld : ∀ s t, execCld s = .next t → P .cld s t
  sed : ∀ s t, execSed s = .next t → P .sed s t
  clv : ∀ s t, execClv s = .next t → P .clv s t
  brk : ∀ s t, execBrk s = .next t → P .brk s t
  nop : ∀ s t, execNop s = .next t → P .nop s t

/-- Every instruction runs one of the rules. -/
theorem ByRule.exec {P : Instr → State → State → Prop} (hP : ByRule P) {s t : State} (i : Instr)
    (h : exec i s = .next t) : P i s t := by
  match i with
  | .ldaImm v => exact hP.lda (.ldaImm v) (.imm v) s t rfl (fun m => by simp [memOperandOf]) h
  | .ldaZp z => exact hP.lda (.ldaZp z) (.mem (.zeroPage z)) s t rfl (fun m => by simp [memOperandOf]) h
  | .ldaZpX z => exact hP.lda (.ldaZpX z) (.mem (.zeroPageX z)) s t rfl (fun m => by simp [memOperandOf]) h
  | .ldaAbs w => exact hP.lda (.ldaAbs w) (.mem (.absolute w)) s t rfl (fun m => by simp [memOperandOf]) h
  | .ldaAbsX w => exact hP.lda (.ldaAbsX w) (.mem (.absoluteX w)) s t rfl (fun m => by simp [memOperandOf]) h
  | .ldaAbsY w => exact hP.lda (.ldaAbsY w) (.mem (.absoluteY w)) s t rfl (fun m => by simp [memOperandOf]) h
  | .ldaIndX z => exact hP.lda (.ldaIndX z) (.mem (.indexedIndirectX z)) s t rfl (fun m => by simp [memOperandOf]) h
  | .ldaIndY z => exact hP.lda (.ldaIndY z) (.mem (.indirectIndexedY z)) s t rfl (fun m => by simp [memOperandOf]) h
  | .ldxImm v => exact hP.ldx (.ldxImm v) (.imm v) s t rfl (fun m => by simp [memOperandOf]) h
  | .ldxZp z => exact hP.ldx (.ldxZp z) (.mem (.zeroPage z)) s t rfl (fun m => by simp [memOperandOf]) h
  | .ldxZpY z => exact hP.ldx (.ldxZpY z) (.mem (.zeroPageY z)) s t rfl (fun m => by simp [memOperandOf]) h
  | .ldxAbs w => exact hP.ldx (.ldxAbs w) (.mem (.absolute w)) s t rfl (fun m => by simp [memOperandOf]) h
  | .ldxAbsY w => exact hP.ldx (.ldxAbsY w) (.mem (.absoluteY w)) s t rfl (fun m => by simp [memOperandOf]) h
  | .ldyImm v => exact hP.ldy (.ldyImm v) (.imm v) s t rfl (fun m => by simp [memOperandOf]) h
  | .ldyZp z => exact hP.ldy (.ldyZp z) (.mem (.zeroPage z)) s t rfl (fun m => by simp [memOperandOf]) h
  | .ldyZpX z => exact hP.ldy (.ldyZpX z) (.mem (.zeroPageX z)) s t rfl (fun m => by simp [memOperandOf]) h
  | .ldyAbs w => exact hP.ldy (.ldyAbs w) (.mem (.absolute w)) s t rfl (fun m => by simp [memOperandOf]) h
  | .ldyAbsX w => exact hP.ldy (.ldyAbsX w) (.mem (.absoluteX w)) s t rfl (fun m => by simp [memOperandOf]) h
  | .staZp z => exact hP.sta (.staZp z) (.zeroPage z) s t rfl rfl h
  | .staZpX z => exact hP.sta (.staZpX z) (.zeroPageX z) s t rfl rfl h
  | .staAbs w => exact hP.sta (.staAbs w) (.absolute w) s t rfl rfl h
  | .staAbsX w => exact hP.sta (.staAbsX w) (.absoluteX w) s t rfl rfl h
  | .staAbsY w => exact hP.sta (.staAbsY w) (.absoluteY w) s t rfl rfl h
  | .staIndX z => exact hP.sta (.staIndX z) (.indexedIndirectX z) s t rfl rfl h
  | .staIndY z => exact hP.sta (.staIndY z) (.indirectIndexedY z) s t rfl rfl h
  | .stxZp z => exact hP.stx (.stxZp z) (.zeroPage z) s t rfl rfl h
  | .stxZpY z => exact hP.stx (.stxZpY z) (.zeroPageY z) s t rfl rfl h
  | .stxAbs w => exact hP.stx (.stxAbs w) (.absolute w) s t rfl rfl h
  | .styZp z => exact hP.sty (.styZp z) (.zeroPage z) s t rfl rfl h
  | .styZpX z => exact hP.sty (.styZpX z) (.zeroPageX z) s t rfl rfl h
  | .styAbs w => exact hP.sty (.styAbs w) (.absolute w) s t rfl rfl h
  | .tax => exact hP.tax s t h
  | .tay => exact hP.tay s t h
  | .txa => exact hP.txa s t h
  | .tya => exact hP.tya s t h
  | .adcImm v => exact hP.adc (.adcImm v) (.imm v) s t rfl (fun m => by simp [memOperandOf]) h
  | .adcZp z => exact hP.adc (.adcZp z) (.mem (.zeroPage z)) s t rfl (fun m => by simp [memOperandOf]) h
  | .adcZpX z => exact hP.adc (.adcZpX z) (.mem (.zeroPageX z)) s t rfl (fun m => by simp [memOperandOf]) h
  | .adcAbs w => exact hP.adc (.adcAbs w) (.mem (.absolute w)) s t rfl (fun m => by simp [memOperandOf]) h
  | .adcAbsX w => exact hP.adc (.adcAbsX w) (.mem (.absoluteX w)) s t rfl (fun m => by simp [memOperandOf]) h
  | .adcAbsY w => exact hP.adc (.adcAbsY w) (.mem (.absoluteY w)) s t rfl (fun m => by simp [memOperandOf]) h
  | .adcIndX z => exact hP.adc (.adcIndX z) (.mem (.indexedIndirectX z)) s t rfl (fun m => by simp [memOperandOf]) h
  | .adcIndY z => exact hP.adc (.adcIndY z) (.mem (.indirectIndexedY z)) s t rfl (fun m => by simp [memOperandOf]) h
  | .sbcImm v => exact hP.sbc (.sbcImm v) (.imm v) s t rfl (fun m => by simp [memOperandOf]) h
  | .sbcZp z => exact hP.sbc (.sbcZp z) (.mem (.zeroPage z)) s t rfl (fun m => by simp [memOperandOf]) h
  | .sbcZpX z => exact hP.sbc (.sbcZpX z) (.mem (.zeroPageX z)) s t rfl (fun m => by simp [memOperandOf]) h
  | .sbcAbs w => exact hP.sbc (.sbcAbs w) (.mem (.absolute w)) s t rfl (fun m => by simp [memOperandOf]) h
  | .sbcAbsX w => exact hP.sbc (.sbcAbsX w) (.mem (.absoluteX w)) s t rfl (fun m => by simp [memOperandOf]) h
  | .sbcAbsY w => exact hP.sbc (.sbcAbsY w) (.mem (.absoluteY w)) s t rfl (fun m => by simp [memOperandOf]) h
  | .sbcIndX z => exact hP.sbc (.sbcIndX z) (.mem (.indexedIndirectX z)) s t rfl (fun m => by simp [memOperandOf]) h
  | .sbcIndY z => exact hP.sbc (.sbcIndY z) (.mem (.indirectIndexedY z)) s t rfl (fun m => by simp [memOperandOf]) h
  | .andImm v => exact hP.and (.andImm v) (.imm v) s t rfl (fun m => by simp [memOperandOf]) h
  | .andZp z => exact hP.and (.andZp z) (.mem (.zeroPage z)) s t rfl (fun m => by simp [memOperandOf]) h
  | .andZpX z => exact hP.and (.andZpX z) (.mem (.zeroPageX z)) s t rfl (fun m => by simp [memOperandOf]) h
  | .andAbs w => exact hP.and (.andAbs w) (.mem (.absolute w)) s t rfl (fun m => by simp [memOperandOf]) h
  | .andAbsX w => exact hP.and (.andAbsX w) (.mem (.absoluteX w)) s t rfl (fun m => by simp [memOperandOf]) h
  | .andAbsY w => exact hP.and (.andAbsY w) (.mem (.absoluteY w)) s t rfl (fun m => by simp [memOperandOf]) h
  | .andIndX z => exact hP.and (.andIndX z) (.mem (.indexedIndirectX z)) s t rfl (fun m => by simp [memOperandOf]) h
  | .andIndY z => exact hP.and (.andIndY z) (.mem (.indirectIndexedY z)) s t rfl (fun m => by simp [memOperandOf]) h
  | .oraImm v => exact hP.ora (.oraImm v) (.imm v) s t rfl (fun m => by simp [memOperandOf]) h
  | .oraZp z => exact hP.ora (.oraZp z) (.mem (.zeroPage z)) s t rfl (fun m => by simp [memOperandOf]) h
  | .oraZpX z => exact hP.ora (.oraZpX z) (.mem (.zeroPageX z)) s t rfl (fun m => by simp [memOperandOf]) h
  | .oraAbs w => exact hP.ora (.oraAbs w) (.mem (.absolute w)) s t rfl (fun m => by simp [memOperandOf]) h
  | .oraAbsX w => exact hP.ora (.oraAbsX w) (.mem (.absoluteX w)) s t rfl (fun m => by simp [memOperandOf]) h
  | .oraAbsY w => exact hP.ora (.oraAbsY w) (.mem (.absoluteY w)) s t rfl (fun m => by simp [memOperandOf]) h
  | .oraIndX z => exact hP.ora (.oraIndX z) (.mem (.indexedIndirectX z)) s t rfl (fun m => by simp [memOperandOf]) h
  | .oraIndY z => exact hP.ora (.oraIndY z) (.mem (.indirectIndexedY z)) s t rfl (fun m => by simp [memOperandOf]) h
  | .eorImm v => exact hP.eor (.eorImm v) (.imm v) s t rfl (fun m => by simp [memOperandOf]) h
  | .eorZp z => exact hP.eor (.eorZp z) (.mem (.zeroPage z)) s t rfl (fun m => by simp [memOperandOf]) h
  | .eorZpX z => exact hP.eor (.eorZpX z) (.mem (.zeroPageX z)) s t rfl (fun m => by simp [memOperandOf]) h
  | .eorAbs w => exact hP.eor (.eorAbs w) (.mem (.absolute w)) s t rfl (fun m => by simp [memOperandOf]) h
  | .eorAbsX w => exact hP.eor (.eorAbsX w) (.mem (.absoluteX w)) s t rfl (fun m => by simp [memOperandOf]) h
  | .eorAbsY w => exact hP.eor (.eorAbsY w) (.mem (.absoluteY w)) s t rfl (fun m => by simp [memOperandOf]) h
  | .eorIndX z => exact hP.eor (.eorIndX z) (.mem (.indexedIndirectX z)) s t rfl (fun m => by simp [memOperandOf]) h
  | .eorIndY z => exact hP.eor (.eorIndY z) (.mem (.indirectIndexedY z)) s t rfl (fun m => by simp [memOperandOf]) h
  | .bitZp z => exact hP.bit (.bitZp z) (.zeroPage z) s t rfl rfl h
  | .bitAbs w => exact hP.bit (.bitAbs w) (.absolute w) s t rfl rfl h
  | .aslAcc => exact hP.asl (.aslAcc) .acc s t rfl (fun m => by simp [memOperandOf]) (by simp) h
  | .aslZp z => exact hP.asl (.aslZp z) (.mem (.zeroPage z)) s t rfl (fun m => by simp [memOperandOf]) (by simp) h
  | .aslZpX z => exact hP.asl (.aslZpX z) (.mem (.zeroPageX z)) s t rfl (fun m => by simp [memOperandOf]) (by simp) h
  | .aslAbs w => exact hP.asl (.aslAbs w) (.mem (.absolute w)) s t rfl (fun m => by simp [memOperandOf]) (by simp) h
  | .aslAbsX w => exact hP.asl (.aslAbsX w) (.mem (.absoluteX w)) s t rfl (fun m => by simp [memOperandOf]) (by simp) h
  | .lsrAcc => exact hP.lsr (.lsrAcc) .acc s t rfl (fun m => by simp [memOperandOf]) (by simp) h
  | .lsrZp z => exact hP.lsr (.lsrZp z) (.mem (.zeroPage z)) s t rfl (fun m => by simp [memOperandOf]) (by simp) h
  | .lsrZpX z => exact hP.lsr (.lsrZpX z) (.mem (.zeroPageX z)) s t rfl (fun m => by simp [memOperandOf]) (by simp) h
  | .lsrAbs w => exact hP.lsr (.lsrAbs w) (.mem (.absolute w)) s t rfl (fun m => by simp [memOperandOf]) (by simp) h
  | .lsrAbsX w => exact hP.lsr (.lsrAbsX w) (.mem (.absoluteX w)) s t rfl (fun m => by simp [memOperandOf]) (by simp) h
  | .rolAcc => exact hP.rol (.rolAcc) .acc s t rfl (fun m => by simp [memOperandOf]) (by simp) h
  | .rolZp z => exact hP.rol (.rolZp z) (.mem (.zeroPage z)) s t rfl (fun m => by simp [memOperandOf]) (by simp) h
  | .rolZpX z => exact hP.rol (.rolZpX z) (.mem (.zeroPageX z)) s t rfl (fun m => by simp [memOperandOf]) (by simp) h
  | .rolAbs w => exact hP.rol (.rolAbs w) (.mem (.absolute w)) s t rfl (fun m => by simp [memOperandOf]) (by simp) h
  | .rolAbsX w => exact hP.rol (.rolAbsX w) (.mem (.absoluteX w)) s t rfl (fun m => by simp [memOperandOf]) (by simp) h
  | .rorAcc => exact hP.ror (.rorAcc) .acc s t rfl (fun m => by simp [memOperandOf]) (by simp) h
  | .rorZp z => exact hP.ror (.rorZp z) (.mem (.zeroPage z)) s t rfl (fun m => by simp [memOperandOf]) (by simp) h
  | .rorZpX z => exact hP.ror (.rorZpX z) (.mem (.zeroPageX z)) s t rfl (fun m => by simp [memOperandOf]) (by simp) h
  | .rorAbs w => exact hP.ror (.rorAbs w) (.mem (.absolute w)) s t rfl (fun m => by simp [memOperandOf]) (by simp) h
  | .rorAbsX w => exact hP.ror (.rorAbsX w) (.mem (.absoluteX w)) s t rfl (fun m => by simp [memOperandOf]) (by simp) h
  | .cmpImm v => exact hP.cmp (.cmpImm v) (.imm v) s t rfl (fun m => by simp [memOperandOf]) h
  | .cmpZp z => exact hP.cmp (.cmpZp z) (.mem (.zeroPage z)) s t rfl (fun m => by simp [memOperandOf]) h
  | .cmpZpX z => exact hP.cmp (.cmpZpX z) (.mem (.zeroPageX z)) s t rfl (fun m => by simp [memOperandOf]) h
  | .cmpAbs w => exact hP.cmp (.cmpAbs w) (.mem (.absolute w)) s t rfl (fun m => by simp [memOperandOf]) h
  | .cmpAbsX w => exact hP.cmp (.cmpAbsX w) (.mem (.absoluteX w)) s t rfl (fun m => by simp [memOperandOf]) h
  | .cmpAbsY w => exact hP.cmp (.cmpAbsY w) (.mem (.absoluteY w)) s t rfl (fun m => by simp [memOperandOf]) h
  | .cmpIndX z => exact hP.cmp (.cmpIndX z) (.mem (.indexedIndirectX z)) s t rfl (fun m => by simp [memOperandOf]) h
  | .cmpIndY z => exact hP.cmp (.cmpIndY z) (.mem (.indirectIndexedY z)) s t rfl (fun m => by simp [memOperandOf]) h
  | .cpxImm v => exact hP.cpx (.cpxImm v) (.imm v) s t rfl (fun m => by simp [memOperandOf]) h
  | .cpxZp z => exact hP.cpx (.cpxZp z) (.mem (.zeroPage z)) s t rfl (fun m => by simp [memOperandOf]) h
  | .cpxAbs w => exact hP.cpx (.cpxAbs w) (.mem (.absolute w)) s t rfl (fun m => by simp [memOperandOf]) h
  | .cpyImm v => exact hP.cpy (.cpyImm v) (.imm v) s t rfl (fun m => by simp [memOperandOf]) h
  | .cpyZp z => exact hP.cpy (.cpyZp z) (.mem (.zeroPage z)) s t rfl (fun m => by simp [memOperandOf]) h
  | .cpyAbs w => exact hP.cpy (.cpyAbs w) (.mem (.absolute w)) s t rfl (fun m => by simp [memOperandOf]) h
  | .incZp z => exact hP.inc (.incZp z) (.zeroPage z) s t rfl rfl h
  | .incZpX z => exact hP.inc (.incZpX z) (.zeroPageX z) s t rfl rfl h
  | .incAbs w => exact hP.inc (.incAbs w) (.absolute w) s t rfl rfl h
  | .incAbsX w => exact hP.inc (.incAbsX w) (.absoluteX w) s t rfl rfl h
  | .decZp z => exact hP.dec (.decZp z) (.zeroPage z) s t rfl rfl h
  | .decZpX z => exact hP.dec (.decZpX z) (.zeroPageX z) s t rfl rfl h
  | .decAbs w => exact hP.dec (.decAbs w) (.absolute w) s t rfl rfl h
  | .decAbsX w => exact hP.dec (.decAbsX w) (.absoluteX w) s t rfl rfl h
  | .inx => exact hP.inx s t h
  | .dex => exact hP.dex s t h
  | .iny => exact hP.iny s t h
  | .dey => exact hP.dey s t h
  | .bpl d => exact hP.bpl d s t h
  | .bmi d => exact hP.bmi d s t h
  | .bvc d => exact hP.bvc d s t h
  | .bvs d => exact hP.bvs d s t h
  | .bcc d => exact hP.bcc d s t h
  | .bcs d => exact hP.bcs d s t h
  | .bne d => exact hP.bne d s t h
  | .beq d => exact hP.beq d s t h
  | .jmpAbs w => exact hP.jmpAbs w s t h
  | .jmpInd w => exact hP.jmpInd w s t h
  | .jsr w => exact hP.jsr w s t h
  | .rts => exact hP.rts s t h
  | .rti => exact hP.rti s t h
  | .pha => exact hP.pha s t h
  | .pla => exact hP.pla s t h
  | .php => exact hP.php s t h
  | .plp => exact hP.plp s t h
  | .tsx => exact hP.tsx s t h
  | .txs => exact hP.txs s t h
  | .clc => exact hP.clc s t h
  | .sec => exact hP.sec s t h
  | .cli => exact hP.cli s t h
  | .sei => exact hP.sei s t h
  | .cld => exact hP.cld s t h
  | .sed => exact hP.sed s t h
  | .clv => exact hP.clv s t h
  | .brk => exact hP.brk s t h
  | .nop => exact hP.nop s t h

end Sys2Proof.Machine
end

