-- ==== Sys2Proof/Laws/Decode.lean ====
section
/-! SUPPORT. The byte-order helpers of the Decoder, and once everything that decoding can do. -/

namespace Sys2Proof

theorem wordOf_toNat (hi lo : Byte) : (wordOf hi lo).toNat = hi.toNat * 256 + lo.toNat := by
  rw [wordOf, BitVec.toNat_append, ← Nat.shiftLeft_add_eq_or_of_lt lo.isLt, Nat.shiftLeft_eq]

theorem hiByte_toNat (w : Addr) : (hiByte w).toNat = w.toNat / 256 := by
  have h := w.isLt
  simp only [hiByte, BitVec.extractLsb'_toNat, Nat.shiftRight_eq_div_pow]
  omega

theorem loByte_toNat (w : Addr) : (loByte w).toNat = w.toNat % 256 := by
  simp only [loByte, BitVec.extractLsb'_toNat, Nat.shiftRight_eq_div_pow]
  omega

@[simp] theorem wordOf_hiByte_loByte (w : Addr) : wordOf (hiByte w) (loByte w) = w := by
  apply BitVec.eq_of_toNat_eq
  rw [wordOf_toNat, hiByte_toNat, loByte_toNat]
  omega

@[simp] theorem hiByte_wordOf (hi lo : Byte) : hiByte (wordOf hi lo) = hi := by
  have h := lo.isLt
  apply BitVec.eq_of_toNat_eq
  rw [hiByte_toNat, wordOf_toNat]
  omega

@[simp] theorem loByte_wordOf (hi lo : Byte) : loByte (wordOf hi lo) = lo := by
  have h := lo.isLt
  apply BitVec.eq_of_toNat_eq
  rw [loByte_toNat, wordOf_toNat]
  omega

@[simp] theorem wordBytes_wordOf (hi lo : Byte) : wordBytes (wordOf hi lo) = [lo, hi] := by
  simp [wordBytes]

/-- What bytes that decode are: an opcode with a cell in the map, its operand bytes, and the rest
(30_encoding.md R300, R301). -/
theorem decode_cases {bytes rest : List Byte} {i : Instr} (h : decode bytes = .ok (i, rest)) :
    ∃ op tail, bytes = op :: tail ∧
      ((shapeOf op = some (.one i) ∧ tail = rest) ∨
        (∃ mk b, shapeOf op = some (.two mk) ∧ tail = b :: rest ∧ i = mk b) ∨
        ∃ mk lo hi, shapeOf op = some (.three mk) ∧ tail = lo :: hi :: rest ∧
          i = mk (wordOf hi lo)) := by
  cases bytes with
  | nil => simp [decode] at h
  | cons op tail =>
    refine ⟨op, tail, rfl, ?_⟩
    simp only [decode] at h
    cases hs : shapeOf op with
    | none => simp [hs] at h
    | some sh =>
      cases sh with
      | one i' =>
        simp only [hs, Except.ok.injEq, Prod.mk.injEq] at h
        exact .inl ⟨by rw [h.1], h.2⟩
      | two mk =>
        cases tail with
        | nil => simp [hs] at h
        | cons b tl =>
          simp only [hs, Except.ok.injEq, Prod.mk.injEq] at h
          exact .inr (.inl ⟨mk, b, rfl, by rw [h.2], h.1.symm⟩)
      | three mk =>
        rcases tail with _ | ⟨lo, _ | ⟨hi, tl⟩⟩
        · simp [hs] at h
        · simp [hs] at h
        · simp only [hs, Except.ok.injEq, Prod.mk.injEq] at h
          exact .inr (.inr ⟨mk, lo, hi, rfl, by rw [h.2], h.1.symm⟩)

/-- A property of every byte is shown at the 256 numbers. -/
theorem byte_cases {P : Byte → Prop} (h : ∀ n, n < 256 → P (BitVec.ofNat 8 n)) (b : Byte) : P b := by
  simpa using h b.toNat b.isLt

end Sys2Proof
end

