-- ==== Sys2Proof/Laws/Observation.lean ====
section
/-! SUPPORT. What an observation of a run does at one state: it ends there, or it goes on to the next
state, or it has no steps left. -/

namespace Sys2Proof.Machine

variable {exitPc : Option Addr} {detector : DeadLoopDetector} {bound : Nat} {past : List State} {s : State}

theorem observe_of_end {e : RunEnd} (n : Nat) (h : runEnd exitPc detector bound past s = some e) :
    observe exitPc detector bound n past s = some (e, s) := by
  cases n <;> simp [observe, h]

theorem observe_zero (h : runEnd exitPc detector bound past s = none) :
    observe exitPc detector bound 0 past s = none := by simp [observe, h]

theorem observe_next {t : State} (n : Nat) (h : runEnd exitPc detector bound past s = none)
    (hs : step s = .next t) :
    observe exitPc detector bound (n + 1) past s =
      observe exitPc detector bound n (s :: past) t := by simp [observe, h, hs]

/-- A state that ends no run has recorded no fault. -/
theorem running_of_not_end (h : runEnd exitPc detector bound past s = none) : s.fault = none := by
  cases hf : s.fault with
  | none => rfl
  | some f => simp [runEnd, hf] at h

end Sys2Proof.Machine
end

