-- ==== Sys2Proof/Laws/PerInstr.lean ====
section
/-! SUPPORT. Per constructor of `Instr`: its encoding has the length of its descriptor, its descriptor is
well-formed, and its opcode byte decodes to that descriptor. -/

namespace Sys2Proof.Laws.Encoding

/-- The encoding of an instruction agrees with its descriptor (30_encoding.md R300, R321, R322). -/
def Statement (i : Instr) : Prop :=
  (encode i).length = i.length ∧ i.wellFormed = true ∧
    ∃ op, (encode i).head? = some op ∧ decodeOpcode op = some i.descriptor

theorem ldaImm (v : Byte) : Statement (.ldaImm v) := ⟨rfl, rfl, _, rfl, rfl⟩
theorem ldaZp (z : Byte) : Statement (.ldaZp z) := ⟨rfl, rfl, _, rfl, rfl⟩
theorem ldaZpX (z : Byte) : Statement (.ldaZpX z) := ⟨rfl, rfl, _, rfl, rfl⟩
theorem ldaAbs (w : Addr) : Statement (.ldaAbs w) := ⟨rfl, rfl, _, rfl, rfl⟩
theorem ldaAbsX (w : Addr) : Statement (.ldaAbsX w) := ⟨rfl, rfl, _, rfl, rfl⟩
theorem ldaAbsY (w : Addr) : Statement (.ldaAbsY w) := ⟨rfl, rfl, _, rfl, rfl⟩
theorem ldaIndX (z : Byte) : Statement (.ldaIndX z) := ⟨rfl, rfl, _, rfl, rfl⟩
theorem ldaIndY (z : Byte) : Statement (.ldaIndY z) := ⟨rfl, rfl, _, rfl, rfl⟩
theorem ldxImm (v : Byte) : Statement (.ldxImm v) := ⟨rfl, rfl, _, rfl, rfl⟩
theorem ldxZp (z : Byte) : Statement (.ldxZp z) := ⟨rfl, rfl, _, rfl, rfl⟩
theorem ldxZpY (z : Byte) : Statement (.ldxZpY z) := ⟨rfl, rfl, _, rfl, rfl⟩
theorem ldxAbs (w : Addr) : Statement (.ldxAbs w) := ⟨rfl, rfl, _, rfl, rfl⟩
theorem ldxAbsY (w : Addr) : Statement (.ldxAbsY w) := ⟨rfl, rfl, _, rfl, rfl⟩
theorem ldyImm (v : Byte) : Statement (.ldyImm v) := ⟨rfl, rfl, _, rfl, rfl⟩
theorem ldyZp (z : Byte) : Statement (.ldyZp z) := ⟨rfl, rfl, _, rfl, rfl⟩
theorem ldyZpX (z : Byte) : Statement (.ldyZpX z) := ⟨rfl, rfl, _, rfl, rfl⟩
theorem ldyAbs (w : Addr) : Statement (.ldyAbs w) := ⟨rfl, rfl, _, rfl, rfl⟩
theorem ldyAbsX (w : Addr) : Statement (.ldyAbsX w) := ⟨rfl, rfl, _, rfl, rfl⟩
theorem staZp (z : Byte) : Statement (.staZp z) := ⟨rfl, rfl, _, rfl, rfl⟩
theorem staZpX (z : Byte) : Statement (.staZpX z) := ⟨rfl, rfl, _, rfl, rfl⟩
theorem staAbs (w : Addr) : Statement (.staAbs w) := ⟨rfl, rfl, _, rfl, rfl⟩
theorem staAbsX (w : Addr) : Statement (.staAbsX w) := ⟨rfl, rfl, _, rfl, rfl⟩
theorem staAbsY (w : Addr) : Statement (.staAbsY w) := ⟨rfl, rfl, _, rfl, rfl⟩
theorem staIndX (z : Byte) : Statement (.staIndX z) := ⟨rfl, rfl, _, rfl, rfl⟩
theorem staIndY (z : Byte) : Statement (.staIndY z) := ⟨rfl, rfl, _, rfl, rfl⟩
theorem stxZp (z : Byte) : Statement (.stxZp z) := ⟨rfl, rfl, _, rfl, rfl⟩
theorem stxZpY (z : Byte) : Statement (.stxZpY z) := ⟨rfl, rfl, _, rfl, rfl⟩
theorem stxAbs (w : Addr) : Statement (.stxAbs w) := ⟨rfl, rfl, _, rfl, rfl⟩
theorem styZp (z : Byte) : Statement (.styZp z) := ⟨rfl, rfl, _, rfl, rfl⟩
theorem styZpX (z : Byte) : Statement (.styZpX z) := ⟨rfl, rfl, _, rfl, rfl⟩
theorem styAbs (w : Addr) : Statement (.styAbs w) := ⟨rfl, rfl, _, rfl, rfl⟩
theorem tax : Statement .tax := ⟨rfl, rfl, _, rfl, rfl⟩
theorem tay : Statement .tay := ⟨rfl, rfl, _, rfl, rfl⟩
theorem txa : Statement .txa := ⟨rfl, rfl, _, rfl, rfl⟩
theorem tya : Statement .tya := ⟨rfl, rfl, _, rfl, rfl⟩
theorem adcImm (v : Byte) : Statement (.adcImm v) := ⟨rfl, rfl, _, rfl, rfl⟩
theorem adcZp (z : Byte) : Statement (.adcZp z) := ⟨rfl, rfl, _, rfl, rfl⟩
theorem adcZpX (z : Byte) : Statement (.adcZpX z) := ⟨rfl, rfl, _, rfl, rfl⟩
theorem adcAbs (w : Addr) : Statement (.adcAbs w) := ⟨rfl, rfl, _, rfl, rfl⟩
theorem adcAbsX (w : Addr) : Statement (.adcAbsX w) := ⟨rfl, rfl, _, rfl, rfl⟩
theorem adcAbsY (w : Addr) : Statement (.adcAbsY w) := ⟨rfl, rfl, _, rfl, rfl⟩
theorem adcIndX (z : Byte) : Statement (.adcIndX z) := ⟨rfl, rfl, _, rfl, rfl⟩
theorem adcIndY (z : Byte) : Statement (.adcIndY z) := ⟨rfl, rfl, _, rfl, rfl⟩
theorem sbcImm (v : Byte) : Statement (.sbcImm v) := ⟨rfl, rfl, _, rfl, rfl⟩
theorem sbcZp (z : Byte) : Statement (.sbcZp z) := ⟨rfl, rfl, _, rfl, rfl⟩
theorem sbcZpX (z : Byte) : Statement (.sbcZpX z) := ⟨rfl, rfl, _, rfl, rfl⟩
theorem sbcAbs (w : Addr) : Statement (.sbcAbs w) := ⟨rfl, rfl, _, rfl, rfl⟩
theorem sbcAbsX (w : Addr) : Statement (.sbcAbsX w) := ⟨rfl, rfl, _, rfl, rfl⟩
theorem sbcAbsY (w : Addr) : Statement (.sbcAbsY w) := ⟨rfl, rfl, _, rfl, rfl⟩
theorem sbcIndX (z : Byte) : Statement (.sbcIndX z) := ⟨rfl, rfl, _, rfl, rfl⟩
theorem sbcIndY (z : Byte) : Statement (.sbcIndY z) := ⟨rfl, rfl, _, rfl, rfl⟩
theorem andImm (v : Byte) : Statement (.andImm v) := ⟨rfl, rfl, _, rfl, rfl⟩
theorem andZp (z : Byte) : Statement (.andZp z) := ⟨rfl, rfl, _, rfl, rfl⟩
theorem andZpX (z : Byte) : Statement (.andZpX z) := ⟨rfl, rfl, _, rfl, rfl⟩
theorem andAbs (w : Addr) : Statement (.andAbs w) := ⟨rfl, rfl, _, rfl, rfl⟩
theorem andAbsX (w : Addr) : Statement (.andAbsX w) := ⟨rfl, rfl, _, rfl, rfl⟩
theorem andAbsY (w : Addr) : Statement (.andAbsY w) := ⟨rfl, rfl, _, rfl, rfl⟩
theorem andIndX (z : Byte) : Statement (.andIndX z) := ⟨rfl, rfl, _, rfl, rfl⟩
theorem andIndY (z : Byte) : Statement (.andIndY z) := ⟨rfl, rfl, _, rfl, rfl⟩
theorem oraImm (v : Byte) : Statement (.oraImm v) := ⟨rfl, rfl, _, rfl, rfl⟩
theorem oraZp (z : Byte) : Statement (.oraZp z) := ⟨rfl, rfl, _, rfl, rfl⟩
theorem oraZpX (z : Byte) : Statement (.oraZpX z) := ⟨rfl, rfl, _, rfl, rfl⟩
theorem oraAbs (w : Addr) : Statement (.oraAbs w) := ⟨rfl, rfl, _, rfl, rfl⟩
theorem oraAbsX (w : Addr) : Statement (.oraAbsX w) := ⟨rfl, rfl, _, rfl, rfl⟩
theorem oraAbsY (w : Addr) : Statement (.oraAbsY w) := ⟨rfl, rfl, _, rfl, rfl⟩
theorem oraIndX (z : Byte) : Statement (.oraIndX z) := ⟨rfl, rfl, _, rfl, rfl⟩
theorem oraIndY (z : Byte) : Statement (.oraIndY z) := ⟨rfl, rfl, _, rfl, rfl⟩
theorem eorImm (v : Byte) : Statement (.eorImm v) := ⟨rfl, rfl, _, rfl, rfl⟩
theorem eorZp (z : Byte) : Statement (.eorZp z) := ⟨rfl, rfl, _, rfl, rfl⟩
theorem eorZpX (z : Byte) : Statement (.eorZpX z) := ⟨rfl, rfl, _, rfl, rfl⟩
theorem eorAbs (w : Addr) : Statement (.eorAbs w) := ⟨rfl, rfl, _, rfl, rfl⟩
theorem eorAbsX (w : Addr) : Statement (.eorAbsX w) := ⟨rfl, rfl, _, rfl, rfl⟩
theorem eorAbsY (w : Addr) : Statement (.eorAbsY w) := ⟨rfl, rfl, _, rfl, rfl⟩
theorem eorIndX (z : Byte) : Statement (.eorIndX z) := ⟨rfl, rfl, _, rfl, rfl⟩
theorem eorIndY (z : Byte) : Statement (.eorIndY z) := ⟨rfl, rfl, _, rfl, rfl⟩
theorem bitZp (z : Byte) : Statement (.bitZp z) := ⟨rfl, rfl, _, rfl, rfl⟩
theorem bitAbs (w : Addr) : Statement (.bitAbs w) := ⟨rfl, rfl, _, rfl, rfl⟩
theorem aslAcc : Statement .aslAcc := ⟨rfl, rfl, _, rfl, rfl⟩
theorem aslZp (z : Byte) : Statement (.aslZp z) := ⟨rfl, rfl, _, rfl, rfl⟩
theorem aslZpX (z : Byte) : Statement (.aslZpX z) := ⟨rfl, rfl, _, rfl, rfl⟩
theorem aslAbs (w : Addr) : Statement (.aslAbs w) := ⟨rfl, rfl, _, rfl, rfl⟩
theorem aslAbsX (w : Addr) : Statement (.aslAbsX w) := ⟨rfl, rfl, _, rfl, rfl⟩
theorem lsrAcc : Statement .lsrAcc := ⟨rfl, rfl, _, rfl, rfl⟩
theorem lsrZp (z : Byte) : Statement (.lsrZp z) := ⟨rfl, rfl, _, rfl, rfl⟩
theorem lsrZpX (z : Byte) : Statement (.lsrZpX z) := ⟨rfl, rfl, _, rfl, rfl⟩
theorem lsrAbs (w : Addr) : Statement (.lsrAbs w) := ⟨rfl, rfl, _, rfl, rfl⟩
theorem lsrAbsX (w : Addr) : Statement (.lsrAbsX w) := ⟨rfl, rfl, _, rfl, rfl⟩
theorem rolAcc : Statement .rolAcc := ⟨rfl, rfl, _, rfl, rfl⟩
theorem rolZp (z : Byte) : Statement (.rolZp z) := ⟨rfl, rfl, _, rfl, rfl⟩
theorem rolZpX (z : Byte) : Statement (.rolZpX z) := ⟨rfl, rfl, _, rfl, rfl⟩
theorem rolAbs (w : Addr) : Statement (.rolAbs w) := ⟨rfl, rfl, _, rfl, rfl⟩
theorem rolAbsX (w : Addr) : Statement (.rolAbsX w) := ⟨rfl, rfl, _, rfl, rfl⟩
theorem rorAcc : Statement .rorAcc := ⟨rfl, rfl, _, rfl, rfl⟩
theorem rorZp (z : Byte) : Statement (.rorZp z) := ⟨rfl, rfl, _, rfl, rfl⟩
theorem rorZpX (z : Byte) : Statement (.rorZpX z) := ⟨rfl, rfl, _, rfl, rfl⟩
theorem rorAbs (w : Addr) : Statement (.rorAbs w) := ⟨rfl, rfl, _, rfl, rfl⟩
theorem rorAbsX (w : Addr) : Statement (.rorAbsX w) := ⟨rfl, rfl, _, rfl, rfl⟩
theorem cmpImm (v : Byte) : Statement (.cmpImm v) := ⟨rfl, rfl, _, rfl, rfl⟩
theorem cmpZp (z : Byte) : Statement (.cmpZp z) := ⟨rfl, rfl, _, rfl, rfl⟩
theorem cmpZpX (z : Byte) : Statement (.cmpZpX z) := ⟨rfl, rfl, _, rfl, rfl⟩
theorem cmpAbs (w : Addr) : Statement (.cmpAbs w) := ⟨rfl, rfl, _, rfl, rfl⟩
theorem cmpAbsX (w : Addr) : Statement (.cmpAbsX w) := ⟨rfl, rfl, _, rfl, rfl⟩
theorem cmpAbsY (w : Addr) : Statement (.cmpAbsY w) := ⟨rfl, rfl, _, rfl, rfl⟩
theorem cmpIndX (z : Byte) : Statement (.cmpIndX z) := ⟨rfl, rfl, _, rfl, rfl⟩
theorem cmpIndY (z : Byte) : Statement (.cmpIndY z) := ⟨rfl, rfl, _, rfl, rfl⟩
theorem cpxImm (v : Byte) : Statement (.cpxImm v) := ⟨rfl, rfl, _, rfl, rfl⟩
theorem cpxZp (z : Byte) : Statement (.cpxZp z) := ⟨rfl, rfl, _, rfl, rfl⟩
theorem cpxAbs (w : Addr) : Statement (.cpxAbs w) := ⟨rfl, rfl, _, rfl, rfl⟩
theorem cpyImm (v : Byte) : Statement (.cpyImm v) := ⟨rfl, rfl, _, rfl, rfl⟩
theorem cpyZp (z : Byte) : Statement (.cpyZp z) := ⟨rfl, rfl, _, rfl, rfl⟩
theorem cpyAbs (w : Addr) : Statement (.cpyAbs w) := ⟨rfl, rfl, _, rfl, rfl⟩
theorem incZp (z : Byte) : Statement (.incZp z) := ⟨rfl, rfl, _, rfl, rfl⟩
theorem incZpX (z : Byte) : Statement (.incZpX z) := ⟨rfl, rfl, _, rfl, rfl⟩
theorem incAbs (w : Addr) : Statement (.incAbs w) := ⟨rfl, rfl, _, rfl, rfl⟩
theorem incAbsX (w : Addr) : Statement (.incAbsX w) := ⟨rfl, rfl, _, rfl, rfl⟩
theorem decZp (z : Byte) : Statement (.decZp z) := ⟨rfl, rfl, _, rfl, rfl⟩
theorem decZpX (z : Byte) : Statement (.decZpX z) := ⟨rfl, rfl, _, rfl, rfl⟩
theorem decAbs (w : Addr) : Statement (.decAbs w) := ⟨rfl, rfl, _, rfl, rfl⟩
theorem decAbsX (w : Addr) : Statement (.decAbsX w) := ⟨rfl, rfl, _, rfl, rfl⟩
theorem inx : Statement .inx := ⟨rfl, rfl, _, rfl, rfl⟩
theorem dex : Statement .dex := ⟨rfl, rfl, _, rfl, rfl⟩
theorem iny : Statement .iny := ⟨rfl, rfl, _, rfl, rfl⟩
theorem dey : Statement .dey := ⟨rfl, rfl, _, rfl, rfl⟩
theorem bpl (d : Byte) : Statement (.bpl d) := ⟨rfl, rfl, _, rfl, rfl⟩
theorem bmi (d : Byte) : Statement (.bmi d) := ⟨rfl, rfl, _, rfl, rfl⟩
theorem bvc (d : Byte) : Statement (.bvc d) := ⟨rfl, rfl, _, rfl, rfl⟩
theorem bvs (d : Byte) : Statement (.bvs d) := ⟨rfl, rfl, _, rfl, rfl⟩
theorem bcc (d : Byte) : Statement (.bcc d) := ⟨rfl, rfl, _, rfl, rfl⟩
theorem bcs (d : Byte) : Statement (.bcs d) := ⟨rfl, rfl, _, rfl, rfl⟩
theorem bne (d : Byte) : Statement (.bne d) := ⟨rfl, rfl, _, rfl, rfl⟩
theorem beq (d : Byte) : Statement (.beq d) := ⟨rfl, rfl, _, rfl, rfl⟩
theorem jmpAbs (w : Addr) : Statement (.jmpAbs w) := ⟨rfl, rfl, _, rfl, rfl⟩
theorem jmpInd (w : Addr) : Statement (.jmpInd w) := ⟨rfl, rfl, _, rfl, rfl⟩
theorem jsr (w : Addr) : Statement (.jsr w) := ⟨rfl, rfl, _, rfl, rfl⟩
theorem rts : Statement .rts := ⟨rfl, rfl, _, rfl, rfl⟩
theorem rti : Statement .rti := ⟨rfl, rfl, _, rfl, rfl⟩
theorem pha : Statement .pha := ⟨rfl, rfl, _, rfl, rfl⟩
theorem pla : Statement .pla := ⟨rfl, rfl, _, rfl, rfl⟩
theorem php : Statement .php := ⟨rfl, rfl, _, rfl, rfl⟩
theorem plp : Statement .plp := ⟨rfl, rfl, _, rfl, rfl⟩
theorem tsx : Statement .tsx := ⟨rfl, rfl, _, rfl, rfl⟩
theorem txs : Statement .txs := ⟨rfl, rfl, _, rfl, rfl⟩
theorem clc : Statement .clc := ⟨rfl, rfl, _, rfl, rfl⟩
theorem sec : Statement .sec := ⟨rfl, rfl, _, rfl, rfl⟩
theorem cli : Statement .cli := ⟨rfl, rfl, _, rfl, rfl⟩
theorem sei : Statement .sei := ⟨rfl, rfl, _, rfl, rfl⟩
theorem cld : Statement .cld := ⟨rfl, rfl, _, rfl, rfl⟩
theorem sed : Statement .sed := ⟨rfl, rfl, _, rfl, rfl⟩
theorem clv : Statement .clv := ⟨rfl, rfl, _, rfl, rfl⟩
theorem brk : Statement .brk := ⟨rfl, rfl, _, rfl, rfl⟩
theorem nop : Statement .nop := ⟨rfl, rfl, _, rfl, rfl⟩

end Sys2Proof.Laws.Encoding
end

