-- ==== Sys2Proof/Laws/Total.lean ====
section
/-! SUPPORT. Every instruction answers a next state from every state, and so does every step of a running
machine. -/

namespace Sys2Proof.Machine

variable {s : State}

theorem memWrite_total {a : Addr} {v : Byte} {k : Rest} (hk : ∀ t, ∃ u, k t = .next u) :
    ∃ u, memWrite a v s k = .next u := by
  unfold memWrite
  split
  · exact ⟨_, rfl⟩
  · exact hk _

theorem put_total {tgt : Target} {v : Byte} {k : Rest} (hk : ∀ t, ∃ u, k t = .next u) :
    ∃ u, put tgt v s k = .next u := by
  cases tgt with
  | acc => exact hk _
  | mem m => exact memWrite_total hk

theorem push_total {v : Byte} {k : Rest} (hk : ∀ t, ∃ u, k t = .next u) :
    ∃ u, push v s k = .next u := by
  unfold push
  split
  · exact ⟨_, rfl⟩
  · exact memWrite_total fun t => hk _

theorem pull_total {k : Byte → Rest} (hk : ∀ v t, ∃ u, k v t = .next u) :
    ∃ u, pull s k = .next u := by
  unfold pull
  split
  · exact ⟨_, rfl⟩
  · exact hk _ _

theorem pushWord_total {w : Addr} {k : Rest} (hk : ∀ t, ∃ u, k t = .next u) :
    ∃ u, pushWord w s k = .next u :=
  push_total fun _ => push_total hk

theorem pullWord_total {k : Addr → Rest} (hk : ∀ w t, ∃ u, k w t = .next u) :
    ∃ u, pullWord s k = .next u :=
  pull_total fun _ _ => pull_total fun _ _ => hk _ _

theorem shift_total (f : Byte → Bool → Byte) (out : Byte → Bool) (tgt : Target) (s : State) :
    ∃ u, shift f out tgt s = .next u := by
  unfold shift
  exact put_total fun _ => ⟨_, rfl⟩

theorem ruleAsl_total (tgt : Target) (s : State) : ∃ u, ruleAsl tgt s = .next u :=
  shift_total _ _ tgt s

theorem ruleLsr_total (tgt : Target) (s : State) : ∃ u, ruleLsr tgt s = .next u :=
  shift_total _ _ tgt s

theorem ruleRol_total (tgt : Target) (s : State) : ∃ u, ruleRol tgt s = .next u :=
  shift_total _ _ tgt s

theorem ruleRor_total (tgt : Target) (s : State) : ∃ u, ruleRor tgt s = .next u :=
  shift_total _ _ tgt s

theorem execJsr_total (w : Addr) (s : State) : ∃ u, execJsr w s = .next u :=
  pushWord_total fun _ => ⟨_, rfl⟩

theorem execRts_total (s : State) : ∃ u, execRts s = .next u :=
  pullWord_total fun _ _ => ⟨_, rfl⟩

theorem execRti_total (s : State) : ∃ u, execRti s = .next u :=
  pull_total fun _ _ => pullWord_total fun _ _ => ⟨_, rfl⟩

theorem execBrk_total (s : State) : ∃ u, execBrk s = .next u := by
  unfold execBrk enterTrap
  exact pushWord_total fun _ => push_total fun _ => ⟨_, rfl⟩

/-- No instruction is refused, and none stops without a state. -/
theorem exec_total (i : Instr) (s : State) : ∃ t, exec i s = .next t :=
  match i with
  | .ldaImm _ => ⟨_, rfl⟩
  | .ldaZp _ => ⟨_, rfl⟩
  | .ldaZpX _ => ⟨_, rfl⟩
  | .ldaAbs _ => ⟨_, rfl⟩
  | .ldaAbsX _ => ⟨_, rfl⟩
  | .ldaAbsY _ => ⟨_, rfl⟩
  | .ldaIndX _ => ⟨_, rfl⟩
  | .ldaIndY _ => ⟨_, rfl⟩
  | .ldxImm _ => ⟨_, rfl⟩
  | .ldxZp _ => ⟨_, rfl⟩
  | .ldxZpY _ => ⟨_, rfl⟩
  | .ldxAbs _ => ⟨_, rfl⟩
  | .ldxAbsY _ => ⟨_, rfl⟩
  | .ldyImm _ => ⟨_, rfl⟩
  | .ldyZp _ => ⟨_, rfl⟩
  | .ldyZpX _ => ⟨_, rfl⟩
  | .ldyAbs _ => ⟨_, rfl⟩
  | .ldyAbsX _ => ⟨_, rfl⟩
  | .staZp _ => memWrite_total fun _ => ⟨_, rfl⟩
  | .staZpX _ => memWrite_total fun _ => ⟨_, rfl⟩
  | .staAbs _ => memWrite_total fun _ => ⟨_, rfl⟩
  | .staAbsX _ => memWrite_total fun _ => ⟨_, rfl⟩
  | .staAbsY _ => memWrite_total fun _ => ⟨_, rfl⟩
  | .staIndX _ => memWrite_total fun _ => ⟨_, rfl⟩
  | .staIndY _ => memWrite_total fun _ => ⟨_, rfl⟩
  | .stxZp _ => memWrite_total fun _ => ⟨_, rfl⟩
  | .stxZpY _ => memWrite_total fun _ => ⟨_, rfl⟩
  | .stxAbs _ => memWrite_total fun _ => ⟨_, rfl⟩
  | .styZp _ => memWrite_total fun _ => ⟨_, rfl⟩
  | .styZpX _ => memWrite_total fun _ => ⟨_, rfl⟩
  | .styAbs _ => memWrite_total fun _ => ⟨_, rfl⟩
  | .tax => ⟨_, rfl⟩
  | .tay => ⟨_, rfl⟩
  | .txa => ⟨_, rfl⟩
  | .tya => ⟨_, rfl⟩
  | .adcImm _ => ⟨_, rfl⟩
  | .adcZp _ => ⟨_, rfl⟩
  | .adcZpX _ => ⟨_, rfl⟩
  | .adcAbs _ => ⟨_, rfl⟩
  | .adcAbsX _ => ⟨_, rfl⟩
  | .adcAbsY _ => ⟨_, rfl⟩
  | .adcIndX _ => ⟨_, rfl⟩
  | .adcIndY _ => ⟨_, rfl⟩
  | .sbcImm _ => ⟨_, rfl⟩
  | .sbcZp _ => ⟨_, rfl⟩
  | .sbcZpX _ => ⟨_, rfl⟩
  | .sbcAbs _ => ⟨_, rfl⟩
  | .sbcAbsX _ => ⟨_, rfl⟩
  | .sbcAbsY _ => ⟨_, rfl⟩
  | .sbcIndX _ => ⟨_, rfl⟩
  | .sbcIndY _ => ⟨_, rfl⟩
  | .andImm _ => ⟨_, rfl⟩
  | .andZp _ => ⟨_, rfl⟩
  | .andZpX _ => ⟨_, rfl⟩
  | .andAbs _ => ⟨_, rfl⟩
  | .andAbsX _ => ⟨_, rfl⟩
  | .andAbsY _ => ⟨_, rfl⟩
  | .andIndX _ => ⟨_, rfl⟩
  | .andIndY _ => ⟨_, rfl⟩
  | .oraImm _ => ⟨_, rfl⟩
  | .oraZp _ => ⟨_, rfl⟩
  | .oraZpX _ => ⟨_, rfl⟩
  | .oraAbs _ => ⟨_, rfl⟩
  | .oraAbsX _ => ⟨_, rfl⟩
  | .oraAbsY _ => ⟨_, rfl⟩
  | .oraIndX _ => ⟨_, rfl⟩
  | .oraIndY _ => ⟨_, rfl⟩
  | .eorImm _ => ⟨_, rfl⟩
  | .eorZp _ => ⟨_, rfl⟩
  | .eorZpX _ => ⟨_, rfl⟩
  | .eorAbs _ => ⟨_, rfl⟩
  | .eorAbsX _ => ⟨_, rfl⟩
  | .eorAbsY _ => ⟨_, rfl⟩
  | .eorIndX _ => ⟨_, rfl⟩
  | .eorIndY _ => ⟨_, rfl⟩
  | .bitZp _ => ⟨_, rfl⟩
  | .bitAbs _ => ⟨_, rfl⟩
  | .aslAcc => ruleAsl_total .acc s
  | .aslZp z => ruleAsl_total (.mem (.zeroPage z)) s
  | .aslZpX z => ruleAsl_total (.mem (.zeroPageX z)) s
  | .aslAbs w => ruleAsl_total (.mem (.absolute w)) s
  | .aslAbsX w => ruleAsl_total (.mem (.absoluteX w)) s
  | .lsrAcc => ruleLsr_total .acc s
  | .lsrZp z => ruleLsr_total (.mem (.zeroPage z)) s
  | .lsrZpX z => ruleLsr_total (.mem (.zeroPageX z)) s
  | .lsrAbs w => ruleLsr_total (.mem (.absolute w)) s
  | .lsrAbsX w => ruleLsr_total (.mem (.absoluteX w)) s
  | .rolAcc => ruleRol_total .acc s
  | .rolZp z => ruleRol_total (.mem (.zeroPage z)) s
  | .rolZpX z => ruleRol_total (.mem (.zeroPageX z)) s
  | .rolAbs w => ruleRol_total (.mem (.absolute w)) s
  | .rolAbsX w => ruleRol_total (.mem (.absoluteX w)) s
  | .rorAcc => ruleRor_total .acc s
  | .rorZp z => ruleRor_total (.mem (.zeroPage z)) s
  | .rorZpX z => ruleRor_total (.mem (.zeroPageX z)) s
  | .rorAbs w => ruleRor_total (.mem (.absolute w)) s
  | .rorAbsX w => ruleRor_total (.mem (.absoluteX w)) s
  | .cmpImm _ => ⟨_, rfl⟩
  | .cmpZp _ => ⟨_, rfl⟩
  | .cmpZpX _ => ⟨_, rfl⟩
  | .cmpAbs _ => ⟨_, rfl⟩
  | .cmpAbsX _ => ⟨_, rfl⟩
  | .cmpAbsY _ => ⟨_, rfl⟩
  | .cmpIndX _ => ⟨_, rfl⟩
  | .cmpIndY _ => ⟨_, rfl⟩
  | .cpxImm _ => ⟨_, rfl⟩
  | .cpxZp _ => ⟨_, rfl⟩
  | .cpxAbs _ => ⟨_, rfl⟩
  | .cpyImm _ => ⟨_, rfl⟩
  | .cpyZp _ => ⟨_, rfl⟩
  | .cpyAbs _ => ⟨_, rfl⟩
  | .incZp _ => memWrite_total fun _ => ⟨_, rfl⟩
  | .incZpX _ => memWrite_total fun _ => ⟨_, rfl⟩
  | .incAbs _ => memWrite_total fun _ => ⟨_, rfl⟩
  | .incAbsX _ => memWrite_total fun _ => ⟨_, rfl⟩
  | .decZp _ => memWrite_total fun _ => ⟨_, rfl⟩
  | .decZpX _ => memWrite_total fun _ => ⟨_, rfl⟩
  | .decAbs _ => memWrite_total fun _ => ⟨_, rfl⟩
  | .decAbsX _ => memWrite_total fun _ => ⟨_, rfl⟩
  | .inx => ⟨_, rfl⟩
  | .dex => ⟨_, rfl⟩
  | .iny => ⟨_, rfl⟩
  | .dey => ⟨_, rfl⟩
  | .bpl _ => ⟨_, rfl⟩
  | .bmi _ => ⟨_, rfl⟩
  | .bvc _ => ⟨_, rfl⟩
  | .bvs _ => ⟨_, rfl⟩
  | .bcc _ => ⟨_, rfl⟩
  | .bcs _ => ⟨_, rfl⟩
  | .bne _ => ⟨_, rfl⟩
  | .beq _ => ⟨_, rfl⟩
  | .jmpAbs _ => ⟨_, rfl⟩
  | .jmpInd _ => ⟨_, rfl⟩
  | .jsr w => execJsr_total w s
  | .rts => execRts_total s
  | .rti => execRti_total s
  | .pha => push_total fun _ => ⟨_, rfl⟩
  | .pla => pull_total fun _ _ => ⟨_, rfl⟩
  | .php => push_total fun _ => ⟨_, rfl⟩
  | .plp => pull_total fun _ _ => ⟨_, rfl⟩
  | .tsx => ⟨_, rfl⟩
  | .txs => ⟨_, rfl⟩
  | .clc => ⟨_, rfl⟩
  | .sec => ⟨_, rfl⟩
  | .cli => ⟨_, rfl⟩
  | .sei => ⟨_, rfl⟩
  | .cld => ⟨_, rfl⟩
  | .sed => ⟨_, rfl⟩
  | .clv => ⟨_, rfl⟩
  | .brk => execBrk_total s
  | .nop => ⟨_, rfl⟩

/-- A running machine steps to a next state. -/
theorem step_total (h : s.fault = none) : ∃ t, step s = .next t := by
  simp only [step, h]
  cases fetch s with
  | none => exact ⟨_, rfl⟩
  | some i => exact exec_total i _

end Sys2Proof.Machine
end

