-- ==== Sys2Proof/Laws/Updates.lean ====
section
/-! SUPPORT. What every instruction can do to the state, said once: a relation between two states that
each elementary update satisfies holds between the states before and after every instruction and every
step. -/

namespace Sys2Proof.Machine

/-- A relation between two states that holds of every elementary update. -/
structure Updates (R : State → State → Prop) : Prop where
  refl : ∀ s, R s s
  trans : ∀ {s t u}, R s t → R t u → R s u
  setA : ∀ s v, R s (s.setA v)
  setX : ∀ s v, R s (s.setX v)
  setY : ∀ s v, R s (s.setY v)
  setSp : ∀ s v, R s (s.setSp v)
  setP : ∀ s v, R s (s.setP v)
  setPc : ∀ s v, R s (s.setPc v)
  setDraws : ∀ s v, R s (s.setDraws v)
  raise : ∀ s f, R s (raise f s)
  write : ∀ s addr v, inRom s addr = false → R s (s.setMem (s.mem.write addr v))

namespace Updates

variable {R : State → State → Prop} (hR : Updates R) {s t : State}
include hR

theorem setNZ (v) (s : State) : R s (setNZ v s) := hR.trans (hR.setP _ _) (hR.setP _ _)

theorem setFlag (s : State) (f b) : R s (s.setFlag f b) := hR.setP _ _

theorem compare (r m) (s : State) : R s (compare r m s) :=
  hR.trans (hR.trans (hR.setP _ _) (hR.setP _ _)) (hR.setP _ _)

theorem memWrite {a v} {k : Rest} (hk : ∀ u, k u = .next t → R u t)
    (h : memWrite a v s k = .next t) : R s t := by
  rcases memWrite_cases h with ⟨_, rfl⟩ | ⟨hr, h⟩
  · exact hR.raise _ _
  · exact hR.trans (hR.write _ _ _ hr) (hk _ h)

theorem put {tgt v} {k : Rest} (hk : ∀ u, k u = .next t → R u t)
    (h : put tgt v s k = .next t) : R s t := by
  cases tgt with
  | acc => exact hR.trans (hR.setA _ _) (hk _ h)
  | mem m => exact hR.memWrite hk h

theorem push {v} {k : Rest} (hk : ∀ u, k u = .next t → R u t)
    (h : push v s k = .next t) : R s t := by
  rcases push_cases h with ⟨_, rfl⟩ | ⟨_, _, rfl⟩ | ⟨_, hr, h⟩
  · exact hR.raise _ _
  · exact hR.raise _ _
  · exact hR.trans (hR.trans (hR.write _ _ _ hr) (hR.setSp _ _)) (hk _ h)

theorem pull {k : Byte → Rest} (hk : ∀ v u, k v u = .next t → R u t)
    (h : pull s k = .next t) : R s t := by
  rcases pull_cases h with ⟨_, rfl⟩ | ⟨_, h⟩
  · exact hR.raise _ _
  · exact hR.trans (hR.setSp _ _) (hk _ _ h)

theorem countDraw (m) (s : State) : R s (countDraw m s) := by
  unfold Machine.countDraw; split
  · exact hR.setDraws _ _
  · exact hR.refl _

theorem ruleLda (src) (h : ruleLda src s = .next t) : R s t := by
  cases h; exact hR.trans (hR.setA _ _) (hR.setNZ _ _)

theorem ruleLdx (src) (h : ruleLdx src s = .next t) : R s t := by
  cases h; exact hR.trans (hR.setX _ _) (hR.setNZ _ _)

theorem ruleLdy (src) (h : ruleLdy src s = .next t) : R s t := by
  cases h; exact hR.trans (hR.setY _ _) (hR.setNZ _ _)

theorem store {a v} (h : Machine.memWrite a v s .next = .next t) : R s t :=
  hR.memWrite (fun u hu => by cases hu; exact hR.refl _) h

theorem ruleSta (m) (h : ruleSta m s = .next t) : R s t := hR.store h

theorem ruleStx (m) (h : ruleStx m s = .next t) : R s t := hR.store h

theorem ruleSty (m) (h : ruleSty m s = .next t) : R s t := hR.store h

theorem execTax (h : execTax s = .next t) : R s t := by cases h; exact hR.trans (hR.setX _ _) (hR.setNZ _ _)

theorem execTay (h : execTay s = .next t) : R s t := by cases h; exact hR.trans (hR.setY _ _) (hR.setNZ _ _)

theorem execTxa (h : execTxa s = .next t) : R s t := by cases h; exact hR.trans (hR.setA _ _) (hR.setNZ _ _)

theorem execTya (h : execTya s = .next t) : R s t := by cases h; exact hR.trans (hR.setA _ _) (hR.setNZ _ _)

theorem ruleAdc (src) (h : ruleAdc src s = .next t) : R s t := by
  cases h; exact hR.trans (hR.trans (hR.countDraw _ _) (hR.setA _ _)) (hR.setP _ _)

theorem ruleSbc (src) (h : ruleSbc src s = .next t) : R s t := by
  cases h; exact hR.trans (hR.trans (hR.countDraw _ _) (hR.setA _ _)) (hR.setP _ _)

theorem ruleAnd (src) (h : ruleAnd src s = .next t) : R s t := by
  cases h; exact hR.trans (hR.setA _ _) (hR.setNZ _ _)

theorem ruleOra (src) (h : ruleOra src s = .next t) : R s t := by
  cases h; exact hR.trans (hR.setA _ _) (hR.setNZ _ _)

theorem ruleEor (src) (h : ruleEor src s = .next t) : R s t := by
  cases h; exact hR.trans (hR.setA _ _) (hR.setNZ _ _)

theorem ruleBit (m) (h : ruleBit m s = .next t) : R s t := by
  cases h; exact hR.trans (hR.trans (hR.setP _ _) (hR.setP _ _)) (hR.setP _ _)

theorem shift {f out tgt} (h : shift f out tgt s = .next t) : R s t :=
  hR.put (fun u hu => by cases hu; exact hR.trans (hR.setFlag _ _ _) (hR.setNZ _ _)) h

theorem ruleAsl (tgt) (h : ruleAsl tgt s = .next t) : R s t := hR.shift h

theorem ruleLsr (tgt) (h : ruleLsr tgt s = .next t) : R s t := hR.shift h

theorem ruleRol (tgt) (h : ruleRol tgt s = .next t) : R s t := hR.shift h

theorem ruleRor (tgt) (h : ruleRor tgt s = .next t) : R s t := hR.shift h

theorem ruleCmp (src) (h : ruleCmp src s = .next t) : R s t := by cases h; exact hR.compare _ _ _

theorem ruleCpx (src) (h : ruleCpx src s = .next t) : R s t := by cases h; exact hR.compare _ _ _

theorem ruleCpy (src) (h : ruleCpy src s = .next t) : R s t := by cases h; exact hR.compare _ _ _

theorem modify {f m} (h : modify f m s = .next t) : R s t :=
  hR.memWrite (a := effAddr m s) (v := f (memRead s (effAddr m s)))
    (k := fun u => .next (Machine.setNZ (f (memRead s (effAddr m s))) u))
    (fun u hu => by cases hu; exact hR.setNZ _ _) h

theorem ruleInc (m) (h : ruleInc m s = .next t) : R s t := hR.modify h

theorem ruleDec (m) (h : ruleDec m s = .next t) : R s t := hR.modify h

theorem execInx (h : execInx s = .next t) : R s t := by cases h; exact hR.trans (hR.setX _ _) (hR.setNZ _ _)

theorem execDex (h : execDex s = .next t) : R s t := by cases h; exact hR.trans (hR.setX _ _) (hR.setNZ _ _)

theorem execIny (h : execIny s = .next t) : R s t := by cases h; exact hR.trans (hR.setY _ _) (hR.setNZ _ _)

theorem execDey (h : execDey s = .next t) : R s t := by cases h; exact hR.trans (hR.setY _ _) (hR.setNZ _ _)

theorem branch (c d) (h : branch c d s = .next t) : R s t := by
  cases h; split
  · exact hR.setPc _ _
  · exact hR.refl _

theorem ruleJmp (w) (h : ruleJmp w s = .next t) : R s t := by cases h; exact hR.setPc _ _

theorem pushWord {w} {k : Rest} (hk : ∀ u, k u = .next t → R u t)
    (h : pushWord w s k = .next t) : R s t :=
  hR.push (fun _ hu => hR.push hk hu) h

theorem pullWord {k : Addr → Rest} (hk : ∀ w u, k w u = .next t → R u t)
    (h : pullWord s k = .next t) : R s t :=
  hR.pull (fun _ _ hu => hR.pull (fun _ _ hv => hk _ _ hv) hu) h

theorem execJsr {w} (h : execJsr w s = .next t) : R s t :=
  hR.pushWord (fun u hu => by cases hu; exact hR.setPc _ _) h

theorem execRts (h : execRts s = .next t) : R s t :=
  hR.pullWord (fun _ u hu => by cases hu; exact hR.setPc _ _) h

theorem execRti (h : execRti s = .next t) : R s t :=
  hR.pull (fun _ _ hu => hR.trans (hR.setP _ _)
    (hR.pullWord (fun _ u hv => by cases hv; exact hR.setPc _ _) hu)) h

theorem execPha (h : execPha s = .next t) : R s t := hR.push (fun u hu => by cases hu; exact hR.refl _) h

theorem execPhp (h : execPhp s = .next t) : R s t := hR.push (fun u hu => by cases hu; exact hR.refl _) h

theorem execPla (h : execPla s = .next t) : R s t :=
  hR.pull (fun _ u hu => by cases hu; exact hR.trans (hR.setA _ _) (hR.setNZ _ _)) h

theorem execPlp (h : execPlp s = .next t) : R s t :=
  hR.pull (fun _ u hu => by cases hu; exact hR.setP _ _) h

theorem execTsx (h : execTsx s = .next t) : R s t := by cases h; exact hR.trans (hR.setX _ _) (hR.setNZ _ _)

theorem execTxs (h : execTxs s = .next t) : R s t := by cases h; exact hR.setSp _ _

theorem execClc (h : execClc s = .next t) : R s t := by cases h; exact hR.setFlag _ _ _

theorem execSec (h : execSec s = .next t) : R s t := by cases h; exact hR.setFlag _ _ _

theorem execCli (h : execCli s = .next t) : R s t := by cases h; exact hR.setFlag _ _ _

theorem execSei (h : execSei s = .next t) : R s t := by cases h; exact hR.setFlag _ _ _

theorem execCld (h : execCld s = .next t) : R s t := by cases h; exact hR.setFlag _ _ _

theorem execSed (h : execSed s = .next t) : R s t := by cases h; exact hR.setFlag _ _ _

theorem execClv (h : execClv s = .next t) : R s t := by cases h; exact hR.setFlag _ _ _

theorem execBrk (h : execBrk s = .next t) : R s t :=
  hR.pushWord (fun _ hu => hR.push (fun u hv => by
    cases hv; exact hR.trans (hR.setFlag _ _ _) (hR.setPc _ _)) hu) h

theorem execNop (h : execNop s = .next t) : R s t := by cases h; exact hR.refl _

/-- Every instruction is made of the elementary updates. -/
theorem exec (i : Instr) (h : exec i s = .next t) : R s t := by
  match i with
  | .ldaImm v => exact hR.ruleLda (.imm v) h
  | .ldaZp z => exact hR.ruleLda (.mem (.zeroPage z)) h
  | .ldaZpX z => exact hR.ruleLda (.mem (.zeroPageX z)) h
  | .ldaAbs w => exact hR.ruleLda (.mem (.absolute w)) h
  | .ldaAbsX w => exact hR.ruleLda (.mem (.absoluteX w)) h
  | .ldaAbsY w => exact hR.ruleLda (.mem (.absoluteY w)) h
  | .ldaIndX z => exact hR.ruleLda (.mem (.indexedIndirectX z)) h
  | .ldaIndY z => exact hR.ruleLda (.mem (.indirectIndexedY z)) h
  | .ldxImm v => exact hR.ruleLdx (.imm v) h
  | .ldxZp z => exact hR.ruleLdx (.mem (.zeroPage z)) h
  | .ldxZpY z => exact hR.ruleLdx (.mem (.zeroPageY z)) h
  | .ldxAbs w => exact hR.ruleLdx (.mem (.absolute w)) h
  | .ldxAbsY w => exact hR.ruleLdx (.mem (.absoluteY w)) h
  | .ldyImm v => exact hR.ruleLdy (.imm v) h
  | .ldyZp z => exact hR.ruleLdy (.mem (.zeroPage z)) h
  | .ldyZpX z => exact hR.ruleLdy (.mem (.zeroPageX z)) h
  | .ldyAbs w => exact hR.ruleLdy (.mem (.absolute w)) h
  | .ldyAbsX w => exact hR.ruleLdy (.mem (.absoluteX w)) h
  | .staZp z => exact hR.ruleSta (.zeroPage z) h
  | .staZpX z => exact hR.ruleSta (.zeroPageX z) h
  | .staAbs w => exact hR.ruleSta (.absolute w) h
  | .staAbsX w => exact hR.ruleSta (.absoluteX w) h
  | .staAbsY w => exact hR.ruleSta (.absoluteY w) h
  | .staIndX z => exact hR.ruleSta (.indexedIndirectX z) h
  | .staIndY z => exact hR.ruleSta (.indirectIndexedY z) h
  | .stxZp z => exact hR.ruleStx (.zeroPage z) h
  | .stxZpY z => exact hR.ruleStx (.zeroPageY z) h
  | .stxAbs w => exact hR.ruleStx (.absolute w) h
  | .styZp z => exact hR.ruleSty (.zeroPage z) h
  | .styZpX z => exact hR.ruleSty (.zeroPageX z) h
  | .styAbs w => exact hR.ruleSty (.absolute w) h
  | .tax => exact hR.execTax h
  | .tay => exact hR.execTay h
  | .txa => exact hR.execTxa h
  | .tya => exact hR.execTya h
  | .adcImm v => exact hR.ruleAdc (.imm v) h
  | .adcZp z => exact hR.ruleAdc (.mem (.zeroPage z)) h
  | .adcZpX z => exact hR.ruleAdc (.mem (.zeroPageX z)) h
  | .adcAbs w => exact hR.ruleAdc (.mem (.absolute w)) h
  | .adcAbsX w => exact hR.ruleAdc (.mem (.absoluteX w)) h
  | .adcAbsY w => exact hR.ruleAdc (.mem (.absoluteY w)) h
  | .adcIndX z => exact hR.ruleAdc (.mem (.indexedIndirectX z)) h
  | .adcIndY z => exact hR.ruleAdc (.mem (.indirectIndexedY z)) h
  | .sbcImm v => exact hR.ruleSbc (.imm v) h
  | .sbcZp z => exact hR.ruleSbc (.mem (.zeroPage z)) h
  | .sbcZpX z => exact hR.ruleSbc (.mem (.zeroPageX z)) h
  | .sbcAbs w => exact hR.ruleSbc (.mem (.absolute w)) h
  | .sbcAbsX w => exact hR.ruleSbc (.mem (.absoluteX w)) h
  | .sbcAbsY w => exact hR.ruleSbc (.mem (.absoluteY w)) h
  | .sbcIndX z => exact hR.ruleSbc (.mem (.indexedIndirectX z)) h
  | .sbcIndY z => exact hR.ruleSbc (.mem (.indirectIndexedY z)) h
  | .andImm v => exact hR.ruleAnd (.imm v) h
  | .andZp z => exact hR.ruleAnd (.mem (.zeroPage z)) h
  | .andZpX z => exact hR.ruleAnd (.mem (.zeroPageX z)) h
  | .andAbs w => exact hR.ruleAnd (.mem (.absolute w)) h
  | .andAbsX w => exact hR.ruleAnd (.mem (.absoluteX w)) h
  | .andAbsY w => exact hR.ruleAnd (.mem (.absoluteY w)) h
  | .andIndX z => exact hR.ruleAnd (.mem (.indexedIndirectX z)) h
  | .andIndY z => exact hR.ruleAnd (.mem (.indirectIndexedY z)) h
  | .oraImm v => exact hR.ruleOra (.imm v) h
  | .oraZp z => exact hR.ruleOra (.mem (.zeroPage z)) h
  | .oraZpX z => exact hR.ruleOra (.mem (.zeroPageX z)) h
  | .oraAbs w => exact hR.ruleOra (.mem (.absolute w)) h
  | .oraAbsX w => exact hR.ruleOra (.mem (.absoluteX w)) h
  | .oraAbsY w => exact hR.ruleOra (.mem (.absoluteY w)) h
  | .oraIndX z => exact hR.ruleOra (.mem (.indexedIndirectX z)) h
  | .oraIndY z => exact hR.ruleOra (.mem (.indirectIndexedY z)) h
  | .eorImm v => exact hR.ruleEor (.imm v) h
  | .eorZp z => exact hR.ruleEor (.mem (.zeroPage z)) h
  | .eorZpX z => exact hR.ruleEor (.mem (.zeroPageX z)) h
  | .eorAbs w => exact hR.ruleEor (.mem (.absolute w)) h
  | .eorAbsX w => exact hR.ruleEor (.mem (.absoluteX w)) h
  | .eorAbsY w => exact hR.ruleEor (.mem (.absoluteY w)) h
  | .eorIndX z => exact hR.ruleEor (.mem (.indexedIndirectX z)) h
  | .eorIndY z => exact hR.ruleEor (.mem (.indirectIndexedY z)) h
  | .bitZp z => exact hR.ruleBit (.zeroPage z) h
  | .bitAbs w => exact hR.ruleBit (.absolute w) h
  | .aslAcc => exact hR.ruleAsl .acc h
  | .aslZp z => exact hR.ruleAsl (.mem (.zeroPage z)) h
  | .aslZpX z => exact hR.ruleAsl (.mem (.zeroPageX z)) h
  | .aslAbs w => exact hR.ruleAsl (.mem (.absolute w)) h
  | .aslAbsX w => exact hR.ruleAsl (.mem (.absoluteX w)) h
  | .lsrAcc => exact hR.ruleLsr .acc h
  | .lsrZp z => exact hR.ruleLsr (.mem (.zeroPage z)) h
  | .lsrZpX z => exact hR.ruleLsr (.mem (.zeroPageX z)) h
  | .lsrAbs w => exact hR.ruleLsr (.mem (.absolute w)) h
  | .lsrAbsX w => exact hR.ruleLsr (.mem (.absoluteX w)) h
  | .rolAcc => exact hR.ruleRol .acc h
  | .rolZp z => exact hR.ruleRol (.mem (.zeroPage z)) h
  | .rolZpX z => exact hR.ruleRol (.mem (.zeroPageX z)) h
  | .rolAbs w => exact hR.ruleRol (.mem (.absolute w)) h
  | .rolAbsX w => exact hR.ruleRol (.mem (.absoluteX w)) h
  | .rorAcc => exact hR.ruleRor .acc h
  | .rorZp z => exact hR.ruleRor (.mem (.zeroPage z)) h
  | .rorZpX z => exact hR.ruleRor (.mem (.zeroPageX z)) h
  | .rorAbs w => exact hR.ruleRor (.mem (.absolute w)) h
  | .rorAbsX w => exact hR.ruleRor (.mem (.absoluteX w)) h
  | .cmpImm v => exact hR.ruleCmp (.imm v) h
  | .cmpZp z => exact hR.ruleCmp (.mem (.zeroPage z)) h
  | .cmpZpX z => exact hR.ruleCmp (.mem (.zeroPageX z)) h
  | .cmpAbs w => exact hR.ruleCmp (.mem (.absolute w)) h
  | .cmpAbsX w => exact hR.ruleCmp (.mem (.absoluteX w)) h
  | .cmpAbsY w => exact hR.ruleCmp (.mem (.absoluteY w)) h
  | .cmpIndX z => exact hR.ruleCmp (.mem (.indexedIndirectX z)) h
  | .cmpIndY z => exact hR.ruleCmp (.mem (.indirectIndexedY z)) h
  | .cpxImm v => exact hR.ruleCpx (.imm v) h
  | .cpxZp z => exact hR.ruleCpx (.mem (.zeroPage z)) h
  | .cpxAbs w => exact hR.ruleCpx (.mem (.absolute w)) h
  | .cpyImm v => exact hR.ruleCpy (.imm v) h
  | .cpyZp z => exact hR.ruleCpy (.mem (.zeroPage z)) h
  | .cpyAbs w => exact hR.ruleCpy (.mem (.absolute w)) h
  | .incZp z => exact hR.ruleInc (.zeroPage z) h
  | .incZpX z => exact hR.ruleInc (.zeroPageX z) h
  | .incAbs w => exact hR.ruleInc (.absolute w) h
  | .incAbsX w => exact hR.ruleInc (.absoluteX w) h
  | .decZp z => exact hR.ruleDec (.zeroPage z) h
  | .decZpX z => exact hR.ruleDec (.zeroPageX z) h
  | .decAbs w => exact hR.ruleDec (.absolute w) h
  | .decAbsX w => exact hR.ruleDec (.absoluteX w) h
  | .inx => exact hR.execInx h
  | .dex => exact hR.execDex h
  | .iny => exact hR.execIny h
  | .dey => exact hR.execDey h
  | .bpl d => exact hR.branch (!s.flag .n) d h
  | .bmi d => exact hR.branch (s.flag .n) d h
  | .bvc d => exact hR.branch (!s.flag .v) d h
  | .bvs d => exact hR.branch (s.flag .v) d h
  | .bcc d => exact hR.branch (!s.flag .c) d h
  | .bcs d => exact hR.branch (s.flag .c) d h
  | .bne d => exact hR.branch (!s.flag .z) d h
  | .beq d => exact hR.branch (s.flag .z) d h
  | .jmpAbs w => exact hR.ruleJmp w h
  | .jmpInd w => exact hR.ruleJmp (indirectTarget w s) h
  | .jsr w => exact hR.execJsr h
  | .rts => exact hR.execRts h
  | .rti => exact hR.execRti h
  | .pha => exact hR.execPha h
  | .pla => exact hR.execPla h
  | .php => exact hR.execPhp h
  | .plp => exact hR.execPlp h
  | .tsx => exact hR.execTsx h
  | .txs => exact hR.execTxs h
  | .clc => exact hR.execClc h
  | .sec => exact hR.execSec h
  | .cli => exact hR.execCli h
  | .sei => exact hR.execSei h
  | .cld => exact hR.execCld h
  | .sed => exact hR.execSed h
  | .clv => exact hR.execClv h
  | .brk => exact hR.execBrk h
  | .nop => exact hR.execNop h

/-- Every step that answers a next state is made of the elementary updates. -/
theorem step (h : step s = .next t) : R s t := by
  obtain ⟨_, ⟨_, rfl⟩ | ⟨i, _, hx⟩⟩ := step_cases h
  · exact hR.raise _ _
  · exact hR.trans (hR.setPc _ _) (hR.exec i hx)
end Updates

end Sys2Proof.Machine
end

