-- ==== Sys2Proof/Tests/Slice0.lean ====
section
/-! SUPPORT. The model's own tests. Expected results come from spec/: the words of the decode tests from the
`Encoding` lines of the rules, the one-step tests from the vectors of 95_test_vectors.md Part 2, each
named by its vector; and a witness for the hypotheses of each statement of Obligations.lean. -/

namespace Sys2Proof.Tests

open Sys2Proof.Machine Sys2Proof.Claims

/-- The bytes decode to the instruction and nothing is left. -/
def reads (bytes : List Byte) (i : Instr) : Bool :=
  match decode bytes with
  | .ok (j, rest) => decide (j = i) && rest.isEmpty
  | .error _ => false

/-- Memory with some bytes replaced. -/
def poke (m : Memory) (cells : List (Addr × Byte)) : Memory :=
  cells.foldl (fun m c => m.write c.1 c.2) m

/-- The state after reset with PC at some code and some bytes in memory. -/
def at_ (pc : Addr) (bytes : List Byte) (cells : List (Addr × Byte)) : State :=
  { State.reset with pc := pc, mem := poke (Memory.load [] pc bytes) cells }

/-- One step from the state leaves exactly the changed state. -/
def stepsTo (s : State) (change : State → State) : Bool :=
  match step s with
  | .next t => decide (t = change s)
  | .fault _ => false
  | .refused _ => false

/-! Well-formed descriptors, one ill-formed term for each check. -/

/-- 42_load_store_transfer.md R503: STA has no immediate form. -/
theorem test_wellFormed_refuses_mode : Descriptor.wellFormed ⟨.sta, .immediate, 2⟩ = false := by decide

/-- 40_sequencer.md R403: an immediate form is 2 bytes long. -/
theorem test_wellFormed_refuses_length : Descriptor.wellFormed ⟨.lda, .immediate, 3⟩ = false := by
  decide

theorem test_wellFormed_accepts : Descriptor.wellFormed ⟨.lda, .immediate, 2⟩ = true := by decide

/-! Decoding: every row of the table, from the `Encoding` line of its rule. -/

/-- The `Encoding` lines of 42_load_store_transfer.md. -/
theorem test_decode_loads_stores_transfers : ([
    reads [0xA9#8, 0x9C#8] (.ldaImm 0x9C#8),
    reads [0xA5#8, 0x9C#8] (.ldaZp 0x9C#8),
    reads [0xB5#8, 0x9C#8] (.ldaZpX 0x9C#8),
    reads [0xAD#8, 0x34#8, 0x12#8] (.ldaAbs 0x1234#16),
    reads [0xBD#8, 0x34#8, 0x12#8] (.ldaAbsX 0x1234#16),
    reads [0xB9#8, 0x34#8, 0x12#8] (.ldaAbsY 0x1234#16),
    reads [0xA1#8, 0x9C#8] (.ldaIndX 0x9C#8),
    reads [0xB1#8, 0x9C#8] (.ldaIndY 0x9C#8),
    reads [0xA2#8, 0x9C#8] (.ldxImm 0x9C#8),
    reads [0xA6#8, 0x9C#8] (.ldxZp 0x9C#8),
    reads [0xB6#8, 0x9C#8] (.ldxZpY 0x9C#8),
    reads [0xAE#8, 0x34#8, 0x12#8] (.ldxAbs 0x1234#16),
    reads [0xBE#8, 0x34#8, 0x12#8] (.ldxAbsY 0x1234#16),
    reads [0xA0#8, 0x9C#8] (.ldyImm 0x9C#8),
    reads [0xA4#8, 0x9C#8] (.ldyZp 0x9C#8),
    reads [0xB4#8, 0x9C#8] (.ldyZpX 0x9C#8),
    reads [0xAC#8, 0x34#8, 0x12#8] (.ldyAbs 0x1234#16),
    reads [0xBC#8, 0x34#8, 0x12#8] (.ldyAbsX 0x1234#16),
    reads [0x85#8, 0x9C#8] (.staZp 0x9C#8),
    reads [0x95#8, 0x9C#8] (.staZpX 0x9C#8),
    reads [0x8D#8, 0x34#8, 0x12#8] (.staAbs 0x1234#16),
    reads [0x9D#8, 0x34#8, 0x12#8] (.staAbsX 0x1234#16),
    reads [0x99#8, 0x34#8, 0x12#8] (.staAbsY 0x1234#16),
    reads [0x81#8, 0x9C#8] (.staIndX 0x9C#8),
    reads [0x91#8, 0x9C#8] (.staIndY 0x9C#8),
    reads [0x86#8, 0x9C#8] (.stxZp 0x9C#8),
    reads [0x96#8, 0x9C#8] (.stxZpY 0x9C#8),
    reads [0x8E#8, 0x34#8, 0x12#8] (.stxAbs 0x1234#16),
    reads [0x84#8, 0x9C#8] (.styZp 0x9C#8),
    reads [0x94#8, 0x9C#8] (.styZpX 0x9C#8),
    reads [0x8C#8, 0x34#8, 0x12#8] (.styAbs 0x1234#16),
    reads [0xAA#8] .tax,
    reads [0xA8#8] .tay,
    reads [0x8A#8] .txa,
    reads [0x98#8] .tya] : List Bool).all id = true := by decide

/-- The `Encoding` lines of 43_arithmetic.md. -/
theorem test_decode_arithmetic : ([
    reads [0x69#8, 0x9C#8] (.adcImm 0x9C#8),
    reads [0x65#8, 0x9C#8] (.adcZp 0x9C#8),
    reads [0x75#8, 0x9C#8] (.adcZpX 0x9C#8),
    reads [0x6D#8, 0x34#8, 0x12#8] (.adcAbs 0x1234#16),
    reads [0x7D#8, 0x34#8, 0x12#8] (.adcAbsX 0x1234#16),
    reads [0x79#8, 0x34#8, 0x12#8] (.adcAbsY 0x1234#16),
    reads [0x61#8, 0x9C#8] (.adcIndX 0x9C#8),
    reads [0x71#8, 0x9C#8] (.adcIndY 0x9C#8),
    reads [0xE9#8, 0x9C#8] (.sbcImm 0x9C#8),
    reads [0xE5#8, 0x9C#8] (.sbcZp 0x9C#8),
    reads [0xF5#8, 0x9C#8] (.sbcZpX 0x9C#8),
    reads [0xED#8, 0x34#8, 0x12#8] (.sbcAbs 0x1234#16),
    reads [0xFD#8, 0x34#8, 0x12#8] (.sbcAbsX 0x1234#16),
    reads [0xF9#8, 0x34#8, 0x12#8] (.sbcAbsY 0x1234#16),
    reads [0xE1#8, 0x9C#8] (.sbcIndX 0x9C#8),
    reads [0xF1#8, 0x9C#8] (.sbcIndY 0x9C#8)] : List Bool).all id = true := by decide

/-- The `Encoding` lines of 44_logical.md. -/
theorem test_decode_logical : ([
    reads [0x29#8, 0x9C#8] (.andImm 0x9C#8),
    reads [0x25#8, 0x9C#8] (.andZp 0x9C#8),
    reads [0x35#8, 0x9C#8] (.andZpX 0x9C#8),
    reads [0x2D#8, 0x34#8, 0x12#8] (.andAbs 0x1234#16),
    reads [0x3D#8, 0x34#8, 0x12#8] (.andAbsX 0x1234#16),
    reads [0x39#8, 0x34#8, 0x12#8] (.andAbsY 0x1234#16),
    reads [0x21#8, 0x9C#8] (.andIndX 0x9C#8),
    reads [0x31#8, 0x9C#8] (.andIndY 0x9C#8),
    reads [0x09#8, 0x9C#8] (.oraImm 0x9C#8),
    reads [0x05#8, 0x9C#8] (.oraZp 0x9C#8),
    reads [0x15#8, 0x9C#8] (.oraZpX 0x9C#8),
    reads [0x0D#8, 0x34#8, 0x12#8] (.oraAbs 0x1234#16),
    reads [0x1D#8, 0x34#8, 0x12#8] (.oraAbsX 0x1234#16),
    reads [0x19#8, 0x34#8, 0x12#8] (.oraAbsY 0x1234#16),
    reads [0x01#8, 0x9C#8] (.oraIndX 0x9C#8),
    reads [0x11#8, 0x9C#8] (.oraIndY 0x9C#8),
    reads [0x49#8, 0x9C#8] (.eorImm 0x9C#8),
    reads [0x45#8, 0x9C#8] (.eorZp 0x9C#8),
    reads [0x55#8, 0x9C#8] (.eorZpX 0x9C#8),
    reads [0x4D#8, 0x34#8, 0x12#8] (.eorAbs 0x1234#16),
    reads [0x5D#8, 0x34#8, 0x12#8] (.eorAbsX 0x1234#16),
    reads [0x59#8, 0x34#8, 0x12#8] (.eorAbsY 0x1234#16),
    reads [0x41#8, 0x9C#8] (.eorIndX 0x9C#8),
    reads [0x51#8, 0x9C#8] (.eorIndY 0x9C#8),
    reads [0x24#8, 0x9C#8] (.bitZp 0x9C#8),
    reads [0x2C#8, 0x34#8, 0x12#8] (.bitAbs 0x1234#16)] : List Bool).all id = true := by decide

/-- The `Encoding` lines of 45_shift_rotate.md. -/
theorem test_decode_shifts : ([
    reads [0x0A#8] .aslAcc,
    reads [0x06#8, 0x9C#8] (.aslZp 0x9C#8),
    reads [0x16#8, 0x9C#8] (.aslZpX 0x9C#8),
    reads [0x0E#8, 0x34#8, 0x12#8] (.aslAbs 0x1234#16),
    reads [0x1E#8, 0x34#8, 0x12#8] (.aslAbsX 0x1234#16),
    reads [0x4A#8] .lsrAcc,
    reads [0x46#8, 0x9C#8] (.lsrZp 0x9C#8),
    reads [0x56#8, 0x9C#8] (.lsrZpX 0x9C#8),
    reads [0x4E#8, 0x34#8, 0x12#8] (.lsrAbs 0x1234#16),
    reads [0x5E#8, 0x34#8, 0x12#8] (.lsrAbsX 0x1234#16),
    reads [0x2A#8] .rolAcc,
    reads [0x26#8, 0x9C#8] (.rolZp 0x9C#8),
    reads [0x36#8, 0x9C#8] (.rolZpX 0x9C#8),
    reads [0x2E#8, 0x34#8, 0x12#8] (.rolAbs 0x1234#16),
    reads [0x3E#8, 0x34#8, 0x12#8] (.rolAbsX 0x1234#16),
    reads [0x6A#8] .rorAcc,
    reads [0x66#8, 0x9C#8] (.rorZp 0x9C#8),
    reads [0x76#8, 0x9C#8] (.rorZpX 0x9C#8),
    reads [0x6E#8, 0x34#8, 0x12#8] (.rorAbs 0x1234#16),
    reads [0x7E#8, 0x34#8, 0x12#8] (.rorAbsX 0x1234#16)] : List Bool).all id = true := by decide

/-- The `Encoding` lines of 46_compare_incdec.md. -/
theorem test_decode_compare_inc_dec : ([
    reads [0xC9#8, 0x9C#8] (.cmpImm 0x9C#8),
    reads [0xC5#8, 0x9C#8] (.cmpZp 0x9C#8),
    reads [0xD5#8, 0x9C#8] (.cmpZpX 0x9C#8),
    reads [0xCD#8, 0x34#8, 0x12#8] (.cmpAbs 0x1234#16),
    reads [0xDD#8, 0x34#8, 0x12#8] (.cmpAbsX 0x1234#16),
    reads [0xD9#8, 0x34#8, 0x12#8] (.cmpAbsY 0x1234#16),
    reads [0xC1#8, 0x9C#8] (.cmpIndX 0x9C#8),
    reads [0xD1#8, 0x9C#8] (.cmpIndY 0x9C#8),
    reads [0xE0#8, 0x9C#8] (.cpxImm 0x9C#8),
    reads [0xE4#8, 0x9C#8] (.cpxZp 0x9C#8),
    reads [0xEC#8, 0x34#8, 0x12#8] (.cpxAbs 0x1234#16),
    reads [0xC0#8, 0x9C#8] (.cpyImm 0x9C#8),
    reads [0xC4#8, 0x9C#8] (.cpyZp 0x9C#8),
    reads [0xCC#8, 0x34#8, 0x12#8] (.cpyAbs 0x1234#16),
    reads [0xE6#8, 0x9C#8] (.incZp 0x9C#8),
    reads [0xF6#8, 0x9C#8] (.incZpX 0x9C#8),
    reads [0xEE#8, 0x34#8, 0x12#8] (.incAbs 0x1234#16),
    reads [0xFE#8, 0x34#8, 0x12#8] (.incAbsX 0x1234#16),
    reads [0xC6#8, 0x9C#8] (.decZp 0x9C#8),
    reads [0xD6#8, 0x9C#8] (.decZpX 0x9C#8),
    reads [0xCE#8, 0x34#8, 0x12#8] (.decAbs 0x1234#16),
    reads [0xDE#8, 0x34#8, 0x12#8] (.decAbsX 0x1234#16),
    reads [0xE8#8] .inx,
    reads [0xCA#8] .dex,
    reads [0xC8#8] .iny,
    reads [0x88#8] .dey] : List Bool).all id = true := by decide

/-- The `Encoding` lines of 47_branch_jump.md. -/
theorem test_decode_branches_jumps : ([
    reads [0x10#8, 0x9C#8] (.bpl 0x9C#8),
    reads [0x30#8, 0x9C#8] (.bmi 0x9C#8),
    reads [0x50#8, 0x9C#8] (.bvc 0x9C#8),
    reads [0x70#8, 0x9C#8] (.bvs 0x9C#8),
    reads [0x90#8, 0x9C#8] (.bcc 0x9C#8),
    reads [0xB0#8, 0x9C#8] (.bcs 0x9C#8),
    reads [0xD0#8, 0x9C#8] (.bne 0x9C#8),
    reads [0xF0#8, 0x9C#8] (.beq 0x9C#8),
    reads [0x4C#8, 0x34#8, 0x12#8] (.jmpAbs 0x1234#16),
    reads [0x6C#8, 0x34#8, 0x12#8] (.jmpInd 0x1234#16),
    reads [0x20#8, 0x34#8, 0x12#8] (.jsr 0x1234#16),
    reads [0x60#8] .rts,
    reads [0x40#8] .rti] : List Bool).all id = true := by decide

/-- The `Encoding` lines of 48_stack_flag.md. -/
theorem test_decode_stack_flags : ([
    reads [0x48#8] .pha,
    reads [0x68#8] .pla,
    reads [0x08#8] .php,
    reads [0x28#8] .plp,
    reads [0xBA#8] .tsx,
    reads [0x9A#8] .txs,
    reads [0x18#8] .clc,
    reads [0x38#8] .sec,
    reads [0x58#8] .cli,
    reads [0x78#8] .sei,
    reads [0xD8#8] .cld,
    reads [0xF8#8] .sed,
    reads [0xB8#8] .clv] : List Bool).all id = true := by decide

/-- The `Encoding` lines of 49_control.md. -/
theorem test_decode_control : ([
    reads [0x00#8] .brk,
    reads [0xEA#8] .nop] : List Bool).all id = true := by decide

/-- 30_encoding.md R330: some of the illegal opcodes, among them NMOS aliases of NOP. -/
theorem test_decode_illegal :
    ([0x02#8, 0x1A#8, 0x80#8, 0x89#8, 0x9C#8, 0xFF#8] : List Byte).all
      (fun op => (decodeOpcode op).isNone) = true := by decide

/-- 30_encoding.md R304 to R309: `aaa_bbb_cc` written out, LDA # is 101 010 01. -/
theorem test_decode_bits_lda : reads [0b10101001#8, 0x41#8] (.ldaImm 0x41#8) = true := by decide

/-- Bits 23..0 of a table word: the opcode in bits 7..0, then the operand bytes (JSR $1234). -/
theorem test_decodeTableWord_jsr : decodeTableWord 24 0x123420 = some (.jsr 0x1234#16) := by decide

/-- A word of one byte has operand bytes of zero (JSR $0000); an illegal opcode is refused. -/
theorem test_decodeTableWord_short :
    decodeTableWord 8 0x20 = some (.jsr 0x0000#16) ∧ decodeTableWord 8 0x02 = none := by decide

/-- The first step after reset runs the loaded word (LDA #$80, vector L2). -/
theorem test_withFetchWord_runs :
    stepsTo (State.reset.withFetchWord 16 0x80A9)
      (fun s => { s with a := 0x80#8, p := 0xA4#8, pc := 0x0402#16 }) = true := by decide

/-! One step each, from 95_test_vectors.md Part 2. -/

/-- Vector S1 (R402 R912): Illegal opcode: rollback, PC stays at opcode. -/
theorem test_S1_illegal : stepsTo
    { at_ 0x0400#16 [0x02#8] [] with a := 0x11#8, x := 0x22#8, y := 0x33#8, sp := 0xFF#8 }
    (fun s => { s with fault := some (.illegalOpcode 0x02#8 0x0400#16) }) = true := by decide

/-- Vector S3 (R402 R107): NOP at 0xFFFF: PC wraps to 0x0000. -/
theorem test_S3_nop : stepsTo
    (at_ 0xFFFF#16 [0xEA#8] [])
    (fun s => { s with pc := 0x0000#16 }) = true := by decide

/-- Vector S4 (R465): LDA abs at 0xFFFE: operand low byte from 0xFFFF (0x00), high byte from 0x0000 (0x34): ea 0x3400; PC wraps to 0x0001. -/
theorem test_S4_lda : stepsTo
    (at_ 0xFFFE#16 [0xAD#8] [(0x0000#16, 0x34#8), (0x3400#16, 0x99#8)])
    (fun s => { s with a := 0x99#8, p := 0xA4#8, pc := 0x0001#16 }) = true := by decide

/-- Vector S5 (R330): Undocumented NOP alias 0x1A is illegal. -/
theorem test_S5_illegal : stepsTo
    (at_ 0x0400#16 [0x1A#8] [])
    (fun s => { s with fault := some (.illegalOpcode 0x1A#8 0x0400#16) }) = true := by decide

/-- Vector M1 (R455): Zp,X wraps in page 0: 0xF0+0x20 -> 0x10. -/
theorem test_M1_lda : stepsTo
    { at_ 0x0400#16 [0xB5#8, 0xF0#8] [(0x0010#16, 0x5A#8)] with x := 0x20#8 }
    (fun s => { s with a := 0x5A#8, pc := 0x0402#16 }) = true := by decide

/-- Vector M2 (R456): LDX zp,Y: 0xFF+2 -> 0x01. -/
theorem test_M2_ldx : stepsTo
    { at_ 0x0400#16 [0xB6#8, 0xFF#8] [(0x0001#16, 0x77#8)] with y := 0x02#8 }
    (fun s => { s with x := 0x77#8, pc := 0x0402#16 }) = true := by decide

/-- Vector M3 (R458): Abs,X crosses a page; no extra access. -/
theorem test_M3_lda : stepsTo
    { at_ 0x0400#16 [0xBD#8, 0xF0#8, 0x12#8] [(0x1310#16, 0x42#8)] with x := 0x20#8 }
    (fun s => { s with a := 0x42#8, pc := 0x0403#16 }) = true := by decide

/-- Vector M4 (R458): Abs,X wraps past 0xFFFF to 0x0001. -/
theorem test_M4_lda : stepsTo
    { at_ 0x0400#16 [0xBD#8, 0xFF#8, 0xFF#8] [(0x0001#16, 0x66#8)] with x := 0x02#8 }
    (fun s => { s with a := 0x66#8, pc := 0x0403#16 }) = true := by decide

/-- Vector M5 (R459): Abs,Y. -/
theorem test_M5_lda : stepsTo
    { at_ 0x0400#16 [0xB9#8, 0x00#8, 0x20#8] [(0x20FF#16, 0x01#8)] with y := 0xFF#8 }
    (fun s => { s with a := 0x01#8, pc := 0x0403#16 }) = true := by decide

/-- Vector M6 (R461): (zp,X): pointer at 0xFF, high byte from 0x00. -/
theorem test_M6_lda : stepsTo
    { at_ 0x0400#16 [0xA1#8, 0xFE#8] [(0x0000#16, 0x12#8), (0x00FF#16, 0x34#8), (0x1234#16, 0xAB#8)] with x := 0x01#8 }
    (fun s => { s with a := 0xAB#8, p := 0xA4#8, pc := 0x0402#16 }) = true := by decide

/-- Vector M7 (R461): (zp,X): 0x40+0xC5 wraps to 0x05. -/
theorem test_M7_lda : stepsTo
    { at_ 0x0400#16 [0xA1#8, 0x40#8] [(0x0005#16, 0x00#8), (0x0006#16, 0x03#8), (0x0300#16, 0x0C#8)] with x := 0xC5#8 }
    (fun s => { s with a := 0x0C#8, pc := 0x0402#16 }) = true := by decide

/-- Vector M8 (R462): (zp),Y: pointer at 0xFF, carry into high byte: 0x12F8+0x10=0x1308. -/
theorem test_M8_lda : stepsTo
    { at_ 0x0400#16 [0xB1#8, 0xFF#8] [(0x0000#16, 0x12#8), (0x00FF#16, 0xF8#8), (0x1308#16, 0xEE#8)] with y := 0x10#8 }
    (fun s => { s with a := 0xEE#8, p := 0xA4#8, pc := 0x0402#16 }) = true := by decide

/-- Vector M9 (R462): (zp),Y wraps past 0xFFFF to 0x0001. -/
theorem test_M9_lda : stepsTo
    { at_ 0x0400#16 [0xB1#8, 0x20#8] [(0x0001#16, 0x5C#8), (0x0020#16, 0xFF#8), (0x0021#16, 0xFF#8)] with y := 0x02#8 }
    (fun s => { s with a := 0x5C#8, pc := 0x0402#16 }) = true := by decide

/-- Vector M10 (R460): JMP ($10FF): high byte from $1000, not $1100. -/
theorem test_M10_jmp : stepsTo
    (at_ 0x0400#16 [0x6C#8, 0xFF#8, 0x10#8] [(0x1000#16, 0x06#8), (0x10FF#16, 0x00#8), (0x1100#16, 0x09#8)])
    (fun s => { s with pc := 0x0600#16 }) = true := by decide

/-- Vector M11 (R460): JMP ($2000), no page wrap. -/
theorem test_M11_jmp : stepsTo
    (at_ 0x0400#16 [0x6C#8, 0x00#8, 0x20#8] [(0x2000#16, 0x34#8), (0x2001#16, 0x12#8)])
    (fun s => { s with pc := 0x1234#16 }) = true := by decide

/-- Vector M12 (R463): BNE -128 from 0x0402. -/
theorem test_M12_bne : stepsTo
    (at_ 0x0400#16 [0xD0#8, 0x80#8] [])
    (fun s => { s with pc := 0x0382#16 }) = true := by decide

/-- Vector M13 (R463): BEQ +127 taken. -/
theorem test_M13_beq : stepsTo
    { at_ 0x0400#16 [0xF0#8, 0x7F#8] [] with p := 0x26#8 }
    (fun s => { s with pc := 0x0481#16 }) = true := by decide

/-- Vector L1 (R500): LDA #0: Z=1, N=0. -/
theorem test_L1_lda : stepsTo
    { at_ 0x0400#16 [0xA9#8, 0x00#8] [] with a := 0x55#8, p := 0xA4#8 }
    (fun s => { s with a := 0x00#8, p := 0x26#8, pc := 0x0402#16 }) = true := by decide

/-- Vector L2 (R500): LDA #$80: N=1, Z=0. -/
theorem test_L2_lda : stepsTo
    { at_ 0x0400#16 [0xA9#8, 0x80#8] [] with p := 0x26#8 }
    (fun s => { s with a := 0x80#8, p := 0xA4#8, pc := 0x0402#16 }) = true := by decide

/-- Vector L3 (R501): LDX #$FF. -/
theorem test_L3_ldx : stepsTo
    (at_ 0x0400#16 [0xA2#8, 0xFF#8] [])
    (fun s => { s with x := 0xFF#8, p := 0xA4#8, pc := 0x0402#16 }) = true := by decide

/-- Vector L4 (R502): LDY #1: N=0 Z=0. -/
theorem test_L4_ldy : stepsTo
    { at_ 0x0400#16 [0xA0#8, 0x01#8] [] with p := 0xA6#8 }
    (fun s => { s with y := 0x01#8, p := 0x24#8, pc := 0x0402#16 }) = true := by decide

/-- Vector L6 (R503 R202): STA into ROM (ROM_START=0x8000): RomViolation, byte unchanged, PC=next. -/
theorem test_L6_sta : stepsTo
    { at_ 0x0400#16 [0x8D#8, 0x00#8, 0x80#8] [(0x8000#16, 0x11#8)] with a := 0x9C#8, cfg := { Config.default with romStart := 0x8000#16 } }
    (fun s => { s with pc := 0x0403#16, fault := some (.romViolation 0x8000#16) }) = true := by decide

/-- Vector L8 (R503): STA $FFFE with default ROM_START: allowed. -/
theorem test_L8_sta : stepsTo
    { at_ 0x0400#16 [0x8D#8, 0xFE#8, 0xFF#8] [] with a := 0x9C#8 }
    (fun s => { s with pc := 0x0403#16, mem := poke s.mem [(0xFFFE#16, 0x9C#8)] }) = true := by decide

/-- Vector L9 (R504): STX zp,Y wraps to 0x02. -/
theorem test_L9_stx : stepsTo
    { at_ 0x0400#16 [0x96#8, 0xFF#8] [] with x := 0x44#8, y := 0x03#8 }
    (fun s => { s with pc := 0x0402#16, mem := poke s.mem [(0x0002#16, 0x44#8)] }) = true := by decide

/-- Vector L10 (R505): STY abs. -/
theorem test_L10_sty : stepsTo
    { at_ 0x0400#16 [0x8C#8, 0x34#8, 0x12#8] [] with y := 0x80#8 }
    (fun s => { s with pc := 0x0403#16, mem := poke s.mem [(0x1234#16, 0x80#8)] }) = true := by decide

/-- Vector L11 (R506): TAX of 0: Z=1. -/
theorem test_L11_tax : stepsTo
    { at_ 0x0400#16 [0xAA#8] [] with x := 0x12#8, p := 0xA4#8 }
    (fun s => { s with x := 0x00#8, p := 0x26#8, pc := 0x0401#16 }) = true := by decide

/-- Vector L12 (R507): TAY: N=1. -/
theorem test_L12_tay : stepsTo
    { at_ 0x0400#16 [0xA8#8] [] with a := 0xF0#8 }
    (fun s => { s with y := 0xF0#8, p := 0xA4#8, pc := 0x0401#16 }) = true := by decide

/-- Vector L13 (R508): TXA: Z=0 N=0. -/
theorem test_L13_txa : stepsTo
    { at_ 0x0400#16 [0x8A#8] [] with x := 0x7F#8, p := 0x26#8 }
    (fun s => { s with a := 0x7F#8, p := 0x24#8, pc := 0x0401#16 }) = true := by decide

/-- Vector L14 (R509): TYA: N=1. -/
theorem test_L14_tya : stepsTo
    { at_ 0x0400#16 [0x98#8] [] with y := 0x80#8 }
    (fun s => { s with a := 0x80#8, p := 0xA4#8, pc := 0x0401#16 }) = true := by decide

/-- Vector A3 (R557): ADC binary: C=1, V=1. -/
theorem test_A3_adc : stepsTo
    { at_ 0x0400#16 [0x69#8, 0xFF#8] [] with a := 0x80#8 }
    (fun s => { s with a := 0x7F#8, p := 0x65#8, pc := 0x0402#16 }) = true := by decide

/-- Vector A16n (R557 R555): As A16 under NmosIntermediate: t=0x80, so N=1 and V=1 (BinaryDerived gives N=0 V=0). -/
theorem test_A16n_adc : stepsTo
    { at_ 0x0400#16 [0x69#8, 0x00#8] [] with a := 0x79#8, p := 0x2D#8, cfg := { Config.default with decimalFlags := .nmosIntermediate } }
    (fun s => { s with a := 0x80#8, p := 0xEC#8, pc := 0x0402#16 }) = true := by decide

/-- Vector A10 (R558): SBC binary: C=0 borrows one more. -/
theorem test_A10_sbc : stepsTo
    { at_ 0x0400#16 [0xE9#8, 0x03#8] [] with a := 0x05#8 }
    (fun s => { s with a := 0x01#8, p := 0x25#8, pc := 0x0402#16 }) = true := by decide

/-- Vector A24 (R558 R553): SBC decimal: 12-21 -> 91, C=0. -/
theorem test_A24_sbc : stepsTo
    { at_ 0x0400#16 [0xE9#8, 0x21#8] [] with a := 0x12#8, p := 0x2D#8 }
    (fun s => { s with a := 0x91#8, p := 0xAC#8, pc := 0x0402#16 }) = true := by decide

/-- Vector A27 (R557 R411): ADC abs. -/
theorem test_A27_adc : stepsTo
    { at_ 0x0400#16 [0x6D#8, 0x00#8, 0x03#8] [(0x0300#16, 0x20#8)] with a := 0x10#8 }
    (fun s => { s with a := 0x30#8, pc := 0x0403#16 }) = true := by decide

/-- Vector G1 (R600): AND to zero: Z=1. -/
theorem test_G1_and : stepsTo
    { at_ 0x0400#16 [0x29#8, 0x0F#8] [] with a := 0xF0#8 }
    (fun s => { s with a := 0x00#8, p := 0x26#8, pc := 0x0402#16 }) = true := by decide

/-- Vector G2 (R601): ORA: N=1. -/
theorem test_G2_ora : stepsTo
    { at_ 0x0400#16 [0x09#8, 0x80#8] [] with a := 0x01#8 }
    (fun s => { s with a := 0x81#8, p := 0xA4#8, pc := 0x0402#16 }) = true := by decide

/-- Vector G3 (R602): EOR self: Z=1. -/
theorem test_G3_eor : stepsTo
    { at_ 0x0400#16 [0x49#8, 0xFF#8] [] with a := 0xFF#8, p := 0xA4#8 }
    (fun s => { s with a := 0x00#8, p := 0x26#8, pc := 0x0402#16 }) = true := by decide

/-- Vector G4 (R603): BIT: A&M=0 so Z=1; N,V from M; A unchanged. -/
theorem test_G4_bit : stepsTo
    { at_ 0x0400#16 [0x24#8, 0x10#8] [(0x0010#16, 0xC0#8)] with a := 0x01#8 }
    (fun s => { s with p := 0xE6#8, pc := 0x0402#16 }) = true := by decide

/-- Vector G5 (R603): BIT: Z=0, N=0, V=0 from M. -/
theorem test_G5_bit : stepsTo
    { at_ 0x0400#16 [0x2C#8, 0x00#8, 0x03#8] [(0x0300#16, 0x01#8)] with a := 0xFF#8, p := 0xE6#8 }
    (fun s => { s with p := 0x24#8, pc := 0x0403#16 }) = true := by decide

/-- Vector H1 (R651): ASL A: 0x80 -> 0, C=1, Z=1. -/
theorem test_H1_asl : stepsTo
    { at_ 0x0400#16 [0x0A#8] [] with a := 0x80#8 }
    (fun s => { s with a := 0x00#8, p := 0x27#8, pc := 0x0401#16 }) = true := by decide

/-- Vector H2 (R651): ASL zp: C-in ignored. -/
theorem test_H2_asl : stepsTo
    { at_ 0x0400#16 [0x06#8, 0x10#8] [(0x0010#16, 0x41#8)] with p := 0x25#8 }
    (fun s => { s with p := 0xA4#8, pc := 0x0402#16, mem := poke s.mem [(0x0010#16, 0x82#8)] }) = true := by decide

/-- Vector H3 (R652): LSR A: 1 -> 0, C=1, Z=1, N=0. -/
theorem test_H3_lsr : stepsTo
    { at_ 0x0400#16 [0x4A#8] [] with a := 0x01#8, p := 0xA4#8 }
    (fun s => { s with a := 0x00#8, p := 0x27#8, pc := 0x0401#16 }) = true := by decide

/-- Vector H4 (R653): ROL A with C=1: 0x80 -> 0x01, C=1. -/
theorem test_H4_rol : stepsTo
    { at_ 0x0400#16 [0x2A#8] [] with a := 0x80#8, p := 0x25#8 }
    (fun s => { s with a := 0x01#8, pc := 0x0401#16 }) = true := by decide

/-- Vector H5 (R654): ROR A with C=1: 0x01 -> 0x80, C=1, N=1. -/
theorem test_H5_ror : stepsTo
    { at_ 0x0400#16 [0x6A#8] [] with a := 0x01#8, p := 0x25#8 }
    (fun s => { s with a := 0x80#8, p := 0xA5#8, pc := 0x0401#16 }) = true := by decide

/-- Vector H6 (R654): ROR zp with C=0: 0 , C=1, Z=1. -/
theorem test_H6_ror : stepsTo
    (at_ 0x0400#16 [0x66#8, 0x10#8] [(0x0010#16, 0x01#8)])
    (fun s => { s with p := 0x27#8, pc := 0x0402#16, mem := poke s.mem [(0x0010#16, 0x00#8)] }) = true := by decide

/-- Vector H7 (R650 R202): ASL abs into ROM: RomViolation, byte and P unchanged. -/
theorem test_H7_asl : stepsTo
    { at_ 0x0400#16 [0x0E#8, 0x00#8, 0x80#8] [(0x8000#16, 0x80#8)] with cfg := { Config.default with romStart := 0x8000#16 } }
    (fun s => { s with pc := 0x0403#16, fault := some (.romViolation 0x8000#16) }) = true := by decide

/-- Vector K1 (R701): CMP equal: C=1 Z=1 N=0. -/
theorem test_K1_cmp : stepsTo
    { at_ 0x0400#16 [0xC9#8, 0x40#8] [] with a := 0x40#8 }
    (fun s => { s with p := 0x27#8, pc := 0x0402#16 }) = true := by decide

/-- Vector K3 (R701): CMP 1 vs 0xFF: t=0x02, C=0 N=0. -/
theorem test_K3_cmp : stepsTo
    { at_ 0x0400#16 [0xC9#8, 0xFF#8] [] with a := 0x01#8 }
    (fun s => { s with pc := 0x0402#16 }) = true := by decide

/-- Vector K4 (R702): CPX equal. -/
theorem test_K4_cpx : stepsTo
    { at_ 0x0400#16 [0xE0#8, 0x05#8] [] with x := 0x05#8 }
    (fun s => { s with p := 0x27#8, pc := 0x0402#16 }) = true := by decide

/-- Vector K5 (R703): CPY 0x10 vs 0x20: N=1. -/
theorem test_K5_cpy : stepsTo
    { at_ 0x0400#16 [0xC0#8, 0x20#8] [] with y := 0x10#8 }
    (fun s => { s with p := 0xA4#8, pc := 0x0402#16 }) = true := by decide

/-- Vector K6 (R704): INC 0xFF -> 0, Z=1. -/
theorem test_K6_inc : stepsTo
    (at_ 0x0400#16 [0xE6#8, 0x10#8] [(0x0010#16, 0xFF#8)])
    (fun s => { s with p := 0x26#8, pc := 0x0402#16, mem := poke s.mem [(0x0010#16, 0x00#8)] }) = true := by decide

/-- Vector K7 (R705): DEC 0 -> 0xFF, N=1. -/
theorem test_K7_dec : stepsTo
    (at_ 0x0400#16 [0xCE#8, 0x00#8, 0x03#8] [(0x0300#16, 0x00#8)])
    (fun s => { s with p := 0xA4#8, pc := 0x0403#16, mem := poke s.mem [(0x0300#16, 0xFF#8)] }) = true := by decide

/-- Vector K8 (R704 R556): INC in decimal mode is binary: 9 -> 0x0A. -/
theorem test_K8_inc : stepsTo
    { at_ 0x0400#16 [0xE6#8, 0x10#8] [(0x0010#16, 0x09#8)] with p := 0x2C#8 }
    (fun s => { s with pc := 0x0402#16, mem := poke s.mem [(0x0010#16, 0x0A#8)] }) = true := by decide

/-- Vector K9 (R704 R202): INC into ROM: fault, unchanged. -/
theorem test_K9_inc : stepsTo
    { at_ 0x0400#16 [0xEE#8, 0x00#8, 0x80#8] [(0x8000#16, 0x01#8)] with cfg := { Config.default with romStart := 0x8000#16 } }
    (fun s => { s with pc := 0x0403#16, fault := some (.romViolation 0x8000#16) }) = true := by decide

/-- Vector K10 (R706): INX wraps. -/
theorem test_K10_inx : stepsTo
    { at_ 0x0400#16 [0xE8#8] [] with x := 0xFF#8 }
    (fun s => { s with x := 0x00#8, p := 0x26#8, pc := 0x0401#16 }) = true := by decide

/-- Vector K11 (R707): DEX wraps. -/
theorem test_K11_dex : stepsTo
    (at_ 0x0400#16 [0xCA#8] [])
    (fun s => { s with x := 0xFF#8, p := 0xA4#8, pc := 0x0401#16 }) = true := by decide

/-- Vector K12 (R708): INY -> 0x80. -/
theorem test_K12_iny : stepsTo
    { at_ 0x0400#16 [0xC8#8] [] with y := 0x7F#8 }
    (fun s => { s with y := 0x80#8, p := 0xA4#8, pc := 0x0401#16 }) = true := by decide

/-- Vector K13 (R709): DEY -> 0. -/
theorem test_K13_dey : stepsTo
    { at_ 0x0400#16 [0x88#8] [] with y := 0x01#8 }
    (fun s => { s with y := 0x00#8, p := 0x26#8, pc := 0x0401#16 }) = true := by decide

/-- Vector B1 (R751): BPL N=0 taken. -/
theorem test_B1_bpl : stepsTo
    (at_ 0x0400#16 [0x10#8, 0x04#8] [])
    (fun s => { s with pc := 0x0406#16 }) = true := by decide

/-- Vector B3 (R752): BMI taken. -/
theorem test_B3_bmi : stepsTo
    { at_ 0x0400#16 [0x30#8, 0x04#8] [] with p := 0xA4#8 }
    (fun s => { s with pc := 0x0406#16 }) = true := by decide

/-- Vector B4 (R753): BVC taken. -/
theorem test_B4_bvc : stepsTo
    (at_ 0x0400#16 [0x50#8, 0x04#8] [])
    (fun s => { s with pc := 0x0406#16 }) = true := by decide

/-- Vector B5 (R754): BVS taken. -/
theorem test_B5_bvs : stepsTo
    { at_ 0x0400#16 [0x70#8, 0x04#8] [] with p := 0x64#8 }
    (fun s => { s with pc := 0x0406#16 }) = true := by decide

/-- Vector B6 (R755): BCC taken. -/
theorem test_B6_bcc : stepsTo
    (at_ 0x0400#16 [0x90#8, 0x04#8] [])
    (fun s => { s with pc := 0x0406#16 }) = true := by decide

/-- Vector B7 (R756): BCS not taken. -/
theorem test_B7_bcs : stepsTo
    (at_ 0x0400#16 [0xB0#8, 0x04#8] [])
    (fun s => { s with pc := 0x0402#16 }) = true := by decide

/-- Vector B8 (R757): BNE Z=1 not taken. -/
theorem test_B8_bne : stepsTo
    { at_ 0x0400#16 [0xD0#8, 0x04#8] [] with p := 0x26#8 }
    (fun s => { s with pc := 0x0402#16 }) = true := by decide

/-- Vector B9 (R758): BEQ taken. -/
theorem test_B9_beq : stepsTo
    { at_ 0x0400#16 [0xF0#8, 0x04#8] [] with p := 0x26#8 }
    (fun s => { s with pc := 0x0406#16 }) = true := by decide

/-- Vector B10 (R756): BCS wraps past 0xFFFF. -/
theorem test_B10_bcs : stepsTo
    { at_ 0xFFF0#16 [0xB0#8, 0x20#8] [] with p := 0x25#8 }
    (fun s => { s with pc := 0x0012#16 }) = true := by decide

/-- Vector J1 (R760): JMP abs. -/
theorem test_J1_jmp : stepsTo
    (at_ 0x0400#16 [0x4C#8, 0x00#8, 0x05#8] [])
    (fun s => { s with pc := 0x0500#16 }) = true := by decide

/-- Vector J2 (R761): JSR pushes 0x0402 high then low. -/
theorem test_J2_jsr : stepsTo
    { at_ 0x0400#16 [0x20#8, 0x00#8, 0x06#8] [] with sp := 0xFF#8 }
    (fun s => { s with sp := 0xFD#8, pc := 0x0600#16, mem := poke s.mem [(0x01FE#16, 0x02#8), (0x01FF#16, 0x04#8)] }) = true := by decide

/-- Vector J3 (R762): RTS pulls 0x0402 and adds 1. -/
theorem test_J3_rts : stepsTo
    (at_ 0x0400#16 [0x60#8] [(0x01FE#16, 0x02#8), (0x01FF#16, 0x04#8)])
    (fun s => { s with sp := 0xFF#8, pc := 0x0403#16 }) = true := by decide

/-- Vector J5 (R763): RTI: P=0xC3, PC=0x1234, no +1. -/
theorem test_J5_rti : stepsTo
    { at_ 0x0400#16 [0x40#8] [(0x01FD#16, 0xC3#8), (0x01FE#16, 0x34#8), (0x01FF#16, 0x12#8)] with sp := 0xFC#8 }
    (fun s => { s with sp := 0xFF#8, p := 0xC3#8, pc := 0x1234#16 }) = true := by decide

/-- Vector J7 (R761 R423): JSR at S=1: high byte written, second push overflows. -/
theorem test_J7_jsr : stepsTo
    { at_ 0x0400#16 [0x20#8, 0x00#8, 0x06#8] [] with sp := 0x01#8 }
    (fun s => { s with sp := 0x00#8, pc := 0x0403#16, mem := poke s.mem [(0x0101#16, 0x04#8)], fault := some .stackOverflow }) = true := by decide

/-- Vector J8 (R762 R423): RTS at S=0xFE: second pull underflows, S=0xFF. -/
theorem test_J8_rts : stepsTo
    { at_ 0x0400#16 [0x60#8] [(0x01FF#16, 0x10#8)] with sp := 0xFE#8 }
    (fun s => { s with sp := 0xFF#8, pc := 0x0401#16, fault := some .stackUnderflow }) = true := by decide

/-- Vector J9 (R763 R423): RTI at S=0xFE: P loaded, then underflow. -/
theorem test_J9_rti : stepsTo
    { at_ 0x0400#16 [0x40#8] [(0x01FF#16, 0xC3#8)] with sp := 0xFE#8 }
    (fun s => { s with sp := 0xFF#8, p := 0xC3#8, pc := 0x0401#16, fault := some .stackUnderflow }) = true := by decide

/-- Vector T3 (R800 R422): PHA at S=0 with STACK_WRAP: writes 0x0100, S=0xFF. -/
theorem test_T3_pha : stepsTo
    { at_ 0x0400#16 [0x48#8] [] with a := 0x42#8, sp := 0x00#8, cfg := { Config.default with stackWrap := true } }
    (fun s => { s with sp := 0xFF#8, pc := 0x0401#16, mem := poke s.mem [(0x0100#16, 0x42#8)] }) = true := by decide

/-- Vector T4 (R801): PLA: N=1. -/
theorem test_T4_pla : stepsTo
    { at_ 0x0400#16 [0x68#8] [(0x01FF#16, 0x80#8)] with sp := 0xFE#8 }
    (fun s => { s with a := 0x80#8, sp := 0xFF#8, p := 0xA4#8, pc := 0x0401#16 }) = true := by decide

/-- Vector T5 (R801 R421): PLA at S=0xFF: StackUnderflow, A unchanged. -/
theorem test_T5_pla : stepsTo
    { at_ 0x0400#16 [0x68#8] [] with a := 0x55#8, sp := 0xFF#8 }
    (fun s => { s with pc := 0x0401#16, fault := some .stackUnderflow }) = true := by decide

/-- Vector T7 (R802): PHP pushes Por0x30. -/
theorem test_T7_php : stepsTo
    { at_ 0x0400#16 [0x08#8] [] with sp := 0xFF#8, p := 0x01#8 }
    (fun s => { s with sp := 0xFE#8, pc := 0x0401#16, mem := poke s.mem [(0x01FF#16, 0x31#8)] }) = true := by decide

/-- Vector T8 (R803): PLP of 0: B and U stored as 0. -/
theorem test_T8_plp : stepsTo
    { at_ 0x0400#16 [0x28#8] [(0x01FF#16, 0x00#8)] with sp := 0xFE#8 }
    (fun s => { s with sp := 0xFF#8, p := 0x00#8, pc := 0x0401#16 }) = true := by decide

/-- Vector T9 (R804): TSX: N=1. -/
theorem test_T9_tsx : stepsTo
    (at_ 0x0400#16 [0xBA#8] [])
    (fun s => { s with x := 0xFD#8, p := 0xA4#8, pc := 0x0401#16 }) = true := by decide

/-- Vector T10 (R805): TXS: flags unchanged. -/
theorem test_T10_txs : stepsTo
    { at_ 0x0400#16 [0x9A#8] [] with p := 0x26#8 }
    (fun s => { s with sp := 0x00#8, pc := 0x0401#16 }) = true := by decide

/-- Vector T12 (R800 R202): PHA with stack in ROM: RomViolation(0x01FF), S unchanged. -/
theorem test_T12_pha : stepsTo
    { at_ 0x0400#16 [0x48#8] [] with a := 0x42#8, sp := 0xFF#8, cfg := { Config.default with romStart := 0x0100#16 } }
    (fun s => { s with pc := 0x0401#16, fault := some (.romViolation 0x01FF#16) }) = true := by decide

/-- Vector F1 (R810): Flag op. -/
theorem test_F1_clc : stepsTo
    { at_ 0x0400#16 [0x18#8] [] with p := 0x25#8 }
    (fun s => { s with p := 0x24#8, pc := 0x0401#16 }) = true := by decide

/-- Vector F2 (R811): Flag op. -/
theorem test_F2_sec : stepsTo
    (at_ 0x0400#16 [0x38#8] [])
    (fun s => { s with p := 0x25#8, pc := 0x0401#16 }) = true := by decide

/-- Vector F3 (R812): Flag op. -/
theorem test_F3_cli : stepsTo
    (at_ 0x0400#16 [0x58#8] [])
    (fun s => { s with p := 0x20#8, pc := 0x0401#16 }) = true := by decide

/-- Vector F4 (R813): Flag op. -/
theorem test_F4_sei : stepsTo
    { at_ 0x0400#16 [0x78#8] [] with p := 0x20#8 }
    (fun s => { s with p := 0x24#8, pc := 0x0401#16 }) = true := by decide

/-- Vector F5 (R814): Flag op. -/
theorem test_F5_cld : stepsTo
    { at_ 0x0400#16 [0xD8#8] [] with p := 0x2C#8 }
    (fun s => { s with p := 0x24#8, pc := 0x0401#16 }) = true := by decide

/-- Vector F6 (R815): Flag op. -/
theorem test_F6_sed : stepsTo
    (at_ 0x0400#16 [0xF8#8] [])
    (fun s => { s with p := 0x2C#8, pc := 0x0401#16 }) = true := by decide

/-- Vector F7 (R816): Flag op. -/
theorem test_F7_clv : stepsTo
    { at_ 0x0400#16 [0xB8#8] [] with p := 0x64#8 }
    (fun s => { s with p := 0x24#8, pc := 0x0401#16 }) = true := by decide

/-- Vector C1 (R850): BRK. -/
theorem test_C1_brk : stepsTo
    { at_ 0x0400#16 [0x00#8] [(0xFFFE#16, 0x00#8), (0xFFFF#16, 0x05#8)] with sp := 0xFF#8, p := 0x20#8 }
    (fun s => { s with sp := 0xFC#8, p := 0x24#8, pc := 0x0500#16, mem := poke s.mem [(0x01FD#16, 0x30#8), (0x01FE#16, 0x02#8), (0x01FF#16, 0x04#8)] }) = true := by decide

/-- Vector C3 (R850 R423): BRK at S=2: two bytes pushed, third overflows, I not set. -/
theorem test_C3_brk : stepsTo
    { at_ 0x0400#16 [0x00#8] [] with sp := 0x02#8, p := 0x20#8 }
    (fun s => { s with sp := 0x00#8, pc := 0x0401#16, mem := poke s.mem [(0x0101#16, 0x02#8), (0x0102#16, 0x04#8)], fault := some .stackOverflow }) = true := by decide

/-- A host memory whose reset vector is 0xC000 (95_test_vectors.md E8, RV1 to RV3). -/
def vectored : State := { State.reset with a := 0x5A#8, mem := poke [] [(0xFFFD#16, 0xC0#8)] }

/-- RV1, RV2 and RV3: the vector, the override and the configured PC, with the accesses of each. -/
theorem test_RV123_reset :
    let none_ := { Config.default with resetPc := none }
    decide (resetWith none_ none vectored =
      { vectored with pc := 0xC000#16, sp := 0xFD#8, p := 0x24#8, cfg := none_ }) = true ∧
    resetAccesses none_ none = [.read 0xFFFC#16, .read 0xFFFD#16] ∧
    (resetWith none_ (some 0x1234#16) vectored).pc = 0x1234#16 ∧
    resetAccesses none_ (some 0x1234#16) = [] ∧
    (resetWith Config.default none vectored).pc = 0x0400#16 ∧
    resetAccesses Config.default none = [] := by decide

/-- RV4: a reset of a halted machine keeps A and X and clears the fault. -/
theorem test_RV4_reset :
    let halted_ := { raise (.illegalOpcode 0x02#8 0x0403#16) State.reset with a := 0x42#8, x := 0x01#8 }
    decide (hostReset Config.default (some 0x0500#16) 0 0 0 (.live halted_) =
      .live { State.reset with a := 0x42#8, x := 0x01#8, pc := 0x0500#16 }) = true := by decide

/-! A witness for the hypotheses of each statement of Obligations.lean, one for each clause, at boundary values.
`ends` is a concrete execution that answers a next state with a property. -/

/-- The instruction answers a next state, and it has the property. -/
def ends (i : Instr) (s : State) (p : State → Bool) : Bool :=
  match exec i s with
  | .next t => p t
  | .fault _ => false
  | .refused _ => false

/-- The step answers a next state, and it has the property. -/
def stepEnds (s : State) (p : State → Bool) : Bool :=
  match step s with
  | .next t => p t
  | .fault _ => false
  | .refused _ => false

theorem exists_of_ends {i : Instr} {s : State} {p : State → Bool} (h : ends i s p = true) :
    ∃ t, exec i s = .next t ∧ p t = true := by
  unfold ends at h
  split at h
  · exact ⟨_, by assumption, h⟩
  · cases h
  · cases h

theorem exists_of_stepEnds {s : State} {p : State → Bool} (h : stepEnds s p = true) :
    ∃ t, step s = .next t ∧ p t = true := by
  unfold stepEnds at h
  split at h
  · exact ⟨_, by assumption, h⟩
  · cases h
  · cases h

/-- The state after reset with S replaced. -/
def withSp (sp : Byte) : State := { State.reset with sp := sp }

/-- As `withSp`, with ROM from an address on. -/
def withRom (rom : Addr) (sp : Byte) : State :=
  { State.reset with sp := sp, cfg := { Config.default with romStart := rom } }

/-- As `withSp`, with `STACK_WRAP`. -/
def withWrap (sp : Byte) : State :=
  { State.reset with sp := sp, cfg := { Config.default with stackWrap := true } }

/-- Wrap on and ROM from an address on. -/
def wrapRom (rom : Addr) (sp : Byte) : State :=
  { State.reset with sp := sp, cfg := { Config.default with stackWrap := true, romStart := rom } }

/-- DecodeInvertsEncode. -/
theorem wit_O2 : (Instr.jsr 0x1234#16).wellFormed = true := by decide

/-- EncodeInvertsDecode. -/
theorem wit_O3 : decode [0x20#8, 0x34#8, 0x12#8, 0xEA#8] = .ok (.jsr 0x1234#16, [0xEA#8]) := rfl

/-- DecoderIsTotalOverOpcodes: a documented opcode and an illegal one. -/
theorem wit_O4 : decodeOpcode 0xA9#8 = some ⟨.lda, .immediate, 2⟩ ∧ decodeOpcode 0x02#8 = none ∧
    decode [0xA9#8, 0x41#8] = .ok (.ldaImm 0x41#8, []) := ⟨rfl, rfl, rfl⟩

/-- StepRunsTheDecodedInstruction, at the top of memory, where the operand bytes wrap. -/
theorem wit_O5 :
    let s := at_ 0xFFFE#16 [0xAD#8] [(0x0000#16, 0x34#8)]
    s.fault = none ∧ decode [s.mem.read s.pc, s.mem.read (s.pc + 1), s.mem.read (s.pc + 2)] =
      .ok (.ldaAbs 0x3400#16, []) := ⟨rfl, rfl⟩

/-- IllegalOpcodeRollsBack, HaltedStepMakesNoAccess. -/
theorem wit_O6 :
    let s := at_ 0x0400#16 [0x02#8] []
    s.fault = none ∧ decodeOpcode (s.mem.read s.pc) = none := by decide

/-- HaltedMachineChangesOnlyByReset, HaltedStepMakesNoAccess. -/
theorem wit_O7 :
    (raise .stackOverflow State.reset).fault = some .stackOverflow := rfl

/-- EveryStepReportsAnOutcome: both sides occur. -/
theorem wit_O9 : stepEnds State.reset (fun _ => true) = true ∧
    stepEnds (raise .stackOverflow State.reset) (fun _ => true) = false := by decide

/-- RecordedFaultsHaveTheirCause: each of the four faults is recorded by some step. -/
theorem wit_O10 :
    stepEnds (at_ 0x0400#16 [0x02#8] [])
      (fun t => decide (t.fault = some (.illegalOpcode 0x02#8 0x0400#16))) = true ∧
    stepEnds { at_ 0x0400#16 [0x48#8] [] with sp := 0x00#8 }
      (fun t => decide (t.fault = some .stackOverflow)) = true ∧
    stepEnds { at_ 0x0400#16 [0x68#8] [] with sp := 0xFF#8 }
      (fun t => decide (t.fault = some .stackUnderflow)) = true ∧
    stepEnds (at_ 0x0400#16 [0x8D#8, 0xFF#8, 0xFF#8] [])
      (fun t => decide (t.fault = some (.romViolation 0xFFFF#16))) = true := by decide

/-- PcIsNextUnlessTheInstructionWritesIt: an instruction that does not write PC, a branch not taken and
one taken. -/
theorem wit_O11 :
    let nop := at_ 0xFFFF#16 [0xEA#8] []
    let bne := at_ 0x0400#16 [0xD0#8, 0x80#8] []
    fetch nop = some .nop ∧ stepEnds nop (fun t => decide (t.fault = none ∧ t.pc = 0#16)) = true ∧
    fetch bne = some (.bne 0x80#8) ∧
    stepEnds { bne with p := 0x26#8 } (fun t => decide (t.fault = none ∧ t.pc = 0x0402#16)) = true ∧
    stepEnds bne (fun t => decide (t.fault = none ∧ t.pc = 0x0382#16)) = true := by decide

/-- ExecuteTimeFaultLeavesPcNext: RTI whose second pull faults (vector J9) and whose first does, JSR whose
second push faults (vector J7), and a store into ROM (vector L6). -/
theorem wit_O12 :
    let rti := { at_ 0x0400#16 [0x40#8] [(0x01FF#16, 0xC3#8)] with sp := 0xFE#8 }
    let jsr := { at_ 0x0400#16 [0x20#8, 0x00#8, 0x06#8] [] with sp := 0x01#8 }
    let sta := at_ 0x0400#16 [0x8D#8, 0xFF#8, 0xFF#8] []
    fetch rti = some .rti ∧
    stepEnds rti (fun t => decide (t.fault ≠ none ∧ t.p = 0xC3#8 ∧ t.sp = 0xFF#8)) = true ∧
    accesses .rti (advance .rti rti) = [.read 0x01FF#16] ∧
    stepEnds { rti with sp := 0xFF#8 } (fun t => decide (t.fault ≠ none ∧ t.p = rti.p)) = true ∧
    accesses .rti (advance .rti { rti with sp := 0xFF#8 }) = [] ∧
    fetch jsr = some (.jsr 0x0600#16) ∧
    stepEnds jsr (fun t => decide (t.fault ≠ none ∧ t.sp = 0x00#8)) = true ∧
    accesses (.jsr 0x0600#16) (advance (.jsr 0x0600#16) jsr) = [.write 0x0101#16] ∧
    fetch sta = some (.staAbs 0xFFFF#16) ∧
    stepEnds sta (fun t => decide (t.fault ≠ none ∧ t.mem = sta.mem)) = true := by decide

/-- StepKeepsCanonicalMemory, ConfigurationChangesOnlyAtReset, RomIsReadOnlyToTheCore: a store just below
`ROM_START` that changes memory, and one at it. -/
theorem wit_O14 :
    let below := { at_ 0x0400#16 [0x8D#8, 0xFE#8, 0xFF#8] [] with a := 0x7E#8 }
    let at_rom := { at_ 0x0400#16 [0x8D#8, 0xFF#8, 0xFF#8] [] with a := 0x7E#8 }
    below.mem.wf = true ∧
    stepEnds below (fun t => decide (t.mem.read 0xFFFE#16 = 0x7E#8 ∧ t.fault = none)) = true ∧
    below.cfg.romStart.toNat ≤ (0xFFFF#16).toNat ∧
    stepEnds at_rom (fun t => decide (t.mem = at_rom.mem ∧ t.fault ≠ none)) = true := by decide

/-- UnlistedFlagsAreBitIdentical. -/
theorem wit_O17 : (Instr.ldaImm 0#8).op ∉ flagWriters .c ∧
    ends (.ldaImm 0#8) State.reset (fun t => t.flag .z) = true := by decide

/-- RegistersChangeOnlyByTheirWriters: A, X, Y and S each change in some execution. -/
theorem wit_O18 :
    ends (.ldaImm 0x41#8) State.reset (fun t => decide (t.a ≠ State.reset.a)) = true ∧
    ends .aslAcc { State.reset with a := 0x41#8 } (fun t => decide (t.a ≠ 0x41#8)) = true ∧
    ends .tsx State.reset (fun t => decide (t.x ≠ State.reset.x)) = true ∧
    ends .dey State.reset (fun t => decide (t.y ≠ State.reset.y)) = true ∧
    ends .pha State.reset (fun t => decide (t.sp ≠ State.reset.sp)) = true := by decide

/-- Decimal mode, `AnyValue`, and an accumulator that is not valid BCD. -/
def anyValue : State :=
  { State.reset with
    a := 0x0F#8, p := 0x2C#8, cfg := { Config.default with invalidBcd := .anyValue } }

/-- RegistersChangeOnlyByTheirWriters, the count of free values: 43_arithmetic.md R554, the operation
completes and A is the free value. -/
theorem wit_O18_draws :
    (∃ t, exec (.adcImm 0x00#8) anyValue = .next t ∧ t.draws ≠ anyValue.draws ∧
      t.a = Config.freeDecimalA 0) ∧
    ∃ t, exec (.sbcImm 0x00#8) anyValue = .next t ∧ t.draws ≠ anyValue.draws ∧
      t.a = Config.freeDecimalA 0 :=
  ⟨⟨_, rfl, by decide, rfl⟩, ⟨_, rfl, by decide, rfl⟩⟩

/-- MemoryChangesOnlyAtListedWrites: the listed write of a store, and the list a ROM fault leaves. -/
theorem wit_O19 :
    accesses (.staIndY 0xFF#8) State.reset =
      [.read 0x00FF#16, .read 0x0000#16, .write 0x0000#16] ∧
    accesses (.staAbs 0xFFFF#16) State.reset = [] ∧
    ends (.staIndY 0xFF#8) State.reset (fun _ => true) = true := by decide

/-- AccessListsHaveTheListedWidths: an execution that completes for each shape. -/
theorem wit_O20 :
    [Instr.ldaAbs 0x0300#16, .staAbs 0xFFFE#16, .aslZp 0x10#8, .pha, .jsr 0x0600#16, .brk].all
      (fun i => ends i State.reset (fun t => decide (t.fault = none))) = true ∧
    [Instr.pla, .rts].all (fun i => ends i State.reset (fun t => decide (t.fault = none))) = true ∧
    ends .rti (withSp 0xFC#8) (fun t => decide (t.fault = none)) = true ∧
    [Instr.jmpInd 0x10FF#16, .jmpAbs 0x0500#16, .ldaImm 0x41#8, .aslAcc, .bne 0xFC#8, .tax].all
      (fun i => ends i State.reset (fun t => decide (t.fault = none))) = true ∧
    accesses (.jmpInd 0x10FF#16) State.reset = [.read 0x10FF#16, .read 0x1000#16] ∧
    [Instr.ldaIndX 0xFE#8, .staIndX 0xFE#8, .ldaIndY 0xFF#8, .staIndY 0xFF#8].all
      (fun i => ends i { State.reset with x := 0x01#8 } (fun t => decide (t.fault = none))) = true ∧
    accesses (.ldaIndX 0xFE#8) { State.reset with x := 0x01#8 } =
      [.read 0x00FF#16, .read 0x0000#16, .read 0x0000#16] ∧
    State.reset.fault = none := by decide

/-- StepDependsOnlyOnTheBytesItReads: two memories that agree on the bytes read and differ elsewhere. -/
theorem wit_O21 :
    let s := at_ 0x0400#16 [0xA5#8, 0x10#8] [(0x0010#16, 0x41#8)]
    let m := s.mem.write 0x0403#16 0xEA#8
    stepAccesses s = [.read 0x0400#16, .read 0x0401#16, .read 0x0010#16] ∧
    m.read 0x0400#16 = s.mem.read 0x0400#16 ∧ m.read 0x0401#16 = s.mem.read 0x0401#16 ∧
    m.read 0x0010#16 = s.mem.read 0x0010#16 ∧ m ≠ s.mem := by decide

/-- StepDependsOnlyOnTheBytesItReads, the bytes written: two canonical memories that differ at a byte INC
does not read, and the write is listed. -/
theorem wit_O21_write :
    let s := at_ 0x0400#16 [0xE6#8, 0x10#8] [(0x0010#16, 0x41#8)]
    let m := s.mem.write 0x0403#16 0xEA#8
    s.mem.wf = true ∧ m.wf = true ∧ m ≠ s.mem ∧
    stepAccesses s = [.read 0x0400#16, .read 0x0401#16, .read 0x0010#16, .write 0x0010#16] ∧
    stepEnds s (fun t => decide (t.mem.read 0x0010#16 = 0x42#8)) = true ∧
    stepEnds { s with mem := m } (fun t => decide (t.mem.read 0x0010#16 = 0x42#8)) = true := by decide

/-- PushesStayInTheStackPage: the lowest push with wrap off, and with wrap on. -/
theorem wit_O22 :
    ends .php (withSp 0x01#8) (fun t => decide (t.mem.read 0x0101#16 = 0x34#8)) = true ∧
    ends .php (withWrap 0x00#8) (fun t => decide (t.mem.read 0x0100#16 = 0x34#8)) = true := by decide

/-- CanonicalMemoriesAreTotalFunctions. -/
theorem wit_O23 : Memory.wf [(0x10, 0x41#8)] = true ∧ Memory.wf [] = true ∧
    Memory.wf [(0x10, 0x00#8)] = false ∧ Memory.wf [(0x11, 0x01#8), (0x10, 0x01#8)] = false := by
  decide

/-- Stores, shifts, INC and DEC: the last address below `ROM_START`, and `ROM_START` itself, under the
default and with no ROM below the top. -/
theorem wit_writable :
    Writable State.reset 0xFFFE#16 ∧ ¬Writable State.reset 0xFFFF#16 ∧
    Writable (withRom 0x8000#16 0xFD#8) 0x7FFF#16 ∧
    ¬Writable (withRom 0x8000#16 0xFD#8) 0x8000#16 := by
  unfold Writable; decide

/-- DecimalAdditionIsDigitwise, DecimalSubtractionIsDigitwise. -/
theorem wit_O33 : validBcd 0x99#8 = true ∧ validBcd 0x00#8 = true ∧ validBcd 0x9A#8 = false ∧
    validBcd 0xA0#8 = false := by decide

/-- The sample of 95_test_vectors.md E3. -/
theorem test_E3 :
    ([(0x99#8, 0x00#8, true, 0x00#8, true), (0x99#8, 0x99#8, true, 0x99#8, true),
      (0x09#8, 0x01#8, false, 0x10#8, false), (0x50#8, 0x49#8, true, 0x00#8, true)] :
        List (Byte × Byte × Bool × Byte × Bool)).all
      (fun (a, m, c, r, out) => decide ((decAdd a m c).r = r ∧ (decAdd a m c).carry = out)) = true ∧
    ([(0x00#8, 0x00#8, false, 0x99#8, false), (0x00#8, 0x99#8, true, 0x01#8, false),
      (0x10#8, 0x01#8, true, 0x09#8, true), (0x50#8, 0x50#8, false, 0x99#8, false)] :
        List (Byte × Byte × Bool × Byte × Bool)).all
      (fun (a, m, c, r, out) => decide (decSub a m c = (r, out))) = true := by decide

/-- AdcAddsInBothModes, SbcSubtractsInBothModes: each case of the mode, the configuration and the
operands. -/
theorem wit_O35 :
    State.reset.flag .d = false ∧ { State.reset with p := 0x2C#8 }.flag .d = true ∧
    DecimalIsFixed 0xFF#8 { State.reset with p := 0x2C#8 } ∧
    DecimalIsFixed 0x99#8 { anyValue with a := 0x99#8 } ∧
    ¬DecimalIsFixed 0x00#8 anyValue ∧ anyValue.flag .d = true ∧
    { Config.default with decimalFlags := .nmosIntermediate }.decimalFlags = .nmosIntermediate := by
  unfold DecimalIsFixed; decide

/-- BranchesFollowTheirFlag: each flag the branches test is set in one state and clear in another. -/
theorem wit_O44 :
    [Flag.n, .v, .c, .z].all (fun f =>
      { State.reset with p := 0xFF#8 }.flag f && !{ State.reset with p := 0x00#8 }.flag f) = true := by
  decide

/-- JsrPushesTheReturnAddress: S = 2 is the least with room for two pushes; S = 0, S = 1 and a stack
page wholly or partly in ROM for the faults. -/
theorem wit_O46 :
    (RoomToPush 2 (withSp 0x02#8) ∧ Writable (withSp 0x02#8) (stackByte 0x02#8) ∧
      Writable (withSp 0x02#8) (stackByte 0x01#8)) ∧
    ¬RoomToPush 1 (withSp 0x00#8) ∧
    (RoomToPush 1 (withRom 0x0100#16 0xFF#8) ∧
      ¬Writable (withRom 0x0100#16 0xFF#8) (stackByte 0xFF#8)) ∧
    (RoomToPush 1 (withSp 0x01#8) ∧ ¬RoomToPush 2 (withSp 0x01#8) ∧
      Writable (withSp 0x01#8) (stackByte 0x01#8)) ∧
    let s := wrapRom 0x01FF#16 0x00#8
    RoomToPush 2 s ∧ Writable s (stackByte s.sp) ∧ ¬Writable s (stackByte (s.sp - 1)) := by
  unfold RoomToPush Writable; decide

/-- RtsPullsAndAddsOne: S = 0xFD is the greatest with room for two pulls. -/
theorem wit_O47 :
    RoomToPull 2 (withSp 0xFD#8) ∧ ¬RoomToPull 1 (withSp 0xFF#8) ∧
    (RoomToPull 1 (withSp 0xFE#8) ∧ ¬RoomToPull 2 (withSp 0xFE#8)) ∧ RoomToPull 2 (withWrap 0xFF#8) := by
  unfold RoomToPull; decide

/-- RtiRestoresStatusAndPc. -/
theorem wit_O48 :
    RoomToPull 3 (withSp 0xFC#8) ∧ ¬RoomToPull 1 (withSp 0xFF#8) ∧
    (RoomToPull 1 (withSp 0xFE#8) ∧ ¬RoomToPull 2 (withSp 0xFE#8)) ∧
    (RoomToPull 2 (withSp 0xFD#8) ∧ ¬RoomToPull 3 (withSp 0xFD#8)) := by
  unfold RoomToPull; decide

/-- BrkEntersTheTrap: each of its seven cases. -/
theorem wit_O49 :
    (RoomToPush 3 (withSp 0x03#8) ∧ Writable (withSp 0x03#8) (stackByte 0x03#8) ∧
      Writable (withSp 0x03#8) (stackByte 0x02#8) ∧ Writable (withSp 0x03#8) (stackByte 0x01#8)) ∧
    ¬RoomToPush 1 (withSp 0x00#8) ∧
    (RoomToPush 1 (withSp 0x01#8) ∧ ¬RoomToPush 2 (withSp 0x01#8) ∧
      Writable (withSp 0x01#8) (stackByte 0x01#8)) ∧
    (RoomToPush 2 (withSp 0x02#8) ∧ ¬RoomToPush 3 (withSp 0x02#8) ∧
      Writable (withSp 0x02#8) (stackByte 0x02#8) ∧ Writable (withSp 0x02#8) (stackByte 0x01#8)) ∧
    (RoomToPush 1 (wrapRom 0x0100#16 0xFF#8) ∧
      ¬Writable (wrapRom 0x0100#16 0xFF#8) (stackByte 0xFF#8)) ∧
    (RoomToPush 2 (wrapRom 0x01FF#16 0x00#8) ∧
      Writable (wrapRom 0x01FF#16 0x00#8) (stackByte 0x00#8) ∧
      ¬Writable (wrapRom 0x01FF#16 0x00#8) (stackByte (0x00#8 - 1))) ∧
    (RoomToPush 3 (wrapRom 0x01FF#16 0x01#8) ∧
      Writable (wrapRom 0x01FF#16 0x01#8) (stackByte 0x01#8) ∧
      Writable (wrapRom 0x01FF#16 0x01#8) (stackByte (0x01#8 - 1)) ∧
      ¬Writable (wrapRom 0x01FF#16 0x01#8) (stackByte (0x01#8 - 2))) := by
  unfold RoomToPush Writable; decide

/-- RtsReturnsAfterJsr and RtiReturnsAfterBrk: a call and a trap that complete, at the least S. -/
theorem wit_O50 :
    (withSp 0x02#8).mem.wf = true ∧ (withSp 0x02#8).fault = none ∧
    ends (.jsr 0x0600#16) (withSp 0x02#8) (fun t => decide (t.fault = none)) = true ∧
    ends .brk (withSp 0x03#8) (fun t => decide (t.fault = none)) = true := by decide

/-- PhaAndPhpPushOneByte and PlaAndPlpPullOneByte. -/
theorem wit_O52 :
    (RoomToPush 1 (withSp 0x01#8) ∧ Writable (withSp 0x01#8) (stackByte 0x01#8)) ∧
    ¬RoomToPush 1 (withSp 0x00#8) ∧
    (RoomToPush 1 (withRom 0x0100#16 0x01#8) ∧
      ¬Writable (withRom 0x0100#16 0x01#8) (stackByte 0x01#8)) ∧
    RoomToPull 1 (withSp 0xFE#8) ∧ ¬RoomToPull 1 (withSp 0xFF#8) := by
  unfold RoomToPush RoomToPull Writable; decide

/-- StackWrapsWithoutFaults. -/
theorem wit_O54 :
    (withWrap 0x00#8).cfg.stackWrap = true ∧ (withWrap 0x00#8).sp = 0x00#8 ∧
    Writable (withWrap 0x00#8) 0x0100#16 ∧ (withWrap 0xFF#8).sp = 0xFF#8 ∧
    stepEnds (withWrap 0x00#8) (fun _ => true) = true := by
  unfold Writable; decide

/-- NopChangesNothing: a running machine whose next opcode is NOP. -/
theorem wit_O56 :
    (at_ 0x0400#16 [0xEA#8] []).fault = none ∧
    (at_ 0x0400#16 [0xEA#8] []).mem.read 0x0400#16 = 0xEA#8 := by decide

/-- LoadedWordRunsNext. -/
theorem wit_O59 : State.reset.mem.wf = true ∧
    decodeTableWord 16 0x80A9 = some (.ldaImm 0x80#8) := by decide

/-- A JMP to itself at 0x040E, the exit of program P1 (95_test_vectors.md Part 3). -/
def selfJump : State := at_ 0x040E#16 [0x4C#8, 0x0E#8, 0x04#8] []

/-- RunsEndAtTheFirstOfTheThreeConditions: a running machine at a JMP to itself. -/
theorem wit_O60 :
    selfJump.fault = none ∧
    decode [selfJump.mem.read selfJump.pc, selfJump.mem.read (selfJump.pc + 1),
      selfJump.mem.read (selfJump.pc + 2)] = .ok (.jmpAbs selfJump.pc, []) := ⟨rfl, rfl⟩

/-- 60_exceptions.md R961: the end of an observation from this state on. -/
def endOf (exitPc : Option Addr) (detector : DeadLoopDetector) (bound n : Nat) (s : State) :
    Option RunEnd :=
  (observe exitPc detector bound n [] s).map (·.1)

/-- 60_exceptions.md R961: each of the three ends after a NOP, a run that meets none, and the dead-loop
address reached one step short of the bound and at it. -/
theorem test_R961_ends :
    let s := at_ 0x0400#16 [0xEA#8, 0x02#8] []
    let loop := at_ 0x0400#16 [0xEA#8, 0x4C#8, 0x01#8, 0x04#8] []
    endOf none selfLoopDetector 5 9 s = some (.faulted (.illegalOpcode 0x02#8 0x0401#16)) ∧
    endOf (some 0x0401#16) selfLoopDetector 5 9 s = some .exited ∧
    endOf none selfLoopDetector 5 6 loop = some .deadLoop ∧
    endOf none selfLoopDetector 5 5 loop = none ∧
    endOf none selfLoopDetector 2 2 selfJump = some .deadLoop ∧
    endOf none selfLoopDetector 2 1 selfJump = none ∧
    endOf none (knownLoopDetector 0x0401#16) 2 9 loop = some .deadLoop ∧
    endOf none (knownLoopDetector 0x0401#16) 1 9 loop = none ∧
    endOf (some 0x0401#16) (knownLoopDetector 0x0401#16) 2 9 loop = some .exited := by decide

end Sys2Proof.Tests
end

section
/-! The halted machine (10_state.md R116): to the host's step it is a fixed point that only a reset leaves. -/

namespace Sys2Proof.Machine

/-- The host's view of `step_halted` (60_exceptions.md R911). -/
theorem hostStep_halted {s : State} {f : Fault} (h : s.fault = some f) :
    hostStep (.live s) = .ok (.faulted f, .live s) := by
  simp [hostStep, step_halted h]

/-- The host's steps of a machine that one step leaves as it was report what that step reports. -/
theorem hostSteps_of_hostStep_fixed {o : StepOutcome} {m : HostMachine}
    (h : hostStep m = .ok (o, m)) (n : Nat) : hostSteps n m = .ok (o, m) := by
  induction n with
  | zero => exact h
  | succ n ih => simp [hostSteps, h, ih]

@[simp] theorem resetWith_fault (cfg : Config) (override : Option Addr) (s : State) :
    (resetWith cfg override s).fault = none := rfl

@[simp] theorem hostReset_live (cfg : Config) (override : Option Addr) (a x y : Byte) (s : State) :
    hostReset cfg override a x y (.live s) = .live (resetWith cfg override s) := rfl

end Sys2Proof.Machine

namespace Sys2Proof.Claims

open Sys2Proof.Machine

/-- Settles O7: a halted machine is a fixed point of the host's step, hence of any number of them, and
the state a reset loads has no fault. -/
theorem haltedMachineChangesOnlyByReset : Obligations.HaltedMachineChangesOnlyByReset := by
  intro s f hfault
  constructor
  · exact hostSteps_of_hostStep_fixed (hostStep_halted hfault)
  · intro cfg override a x y
    exact ⟨resetWith cfg override s, hostReset_live .., resetWith_fault ..⟩

end Sys2Proof.Claims
end

section
/-! Decoding from the cell of the opcode map (30_encoding.md R301, R320): an opcode whose cell is known
decodes, with the operand bytes of its format, whatever bytes follow. It is the converse of `decode_cases`. -/

namespace Sys2Proof.Claims

variable {op : Byte}

theorem decodes_one {i : Instr} (h : shapeOf op = some (.one i)) : Decodes [op] i := by
  intro rest
  simp [decode, h]

theorem decodes_two {mk : Byte → Instr} (h : shapeOf op = some (.two mk)) (b : Byte) :
    Decodes [op, b] (mk b) := by
  intro rest
  simp [decode, h]

theorem decodes_three {mk : Addr → Instr} (h : shapeOf op = some (.three mk)) (w : Addr) :
    Decodes (op :: wordBytes w) (mk w) := by
  intro rest
  simp [decode, h, wordBytes]

/-- Settles O1: each sample opcode selects the cell of the map that holds its instruction's format, and the
cell decides how the bytes decode. -/
theorem sampleWordsDecodeBitByBit : Obligations.SampleWordsDecodeBitByBit := by
  unfold Obligations.SampleWordsDecodeBitByBit
  exact ⟨
    decodes_two (mk := .ldaImm) rfl 0x41#8,
    decodes_three (mk := .ldxAbsY) rfl 0x1234#16,
    decodes_two (mk := .adcIndX) rfl 0x10#8,
    decodes_two (mk := .sbcIndY) rfl 0x10#8,
    decodes_three (mk := .bitAbs) rfl 0x0300#16,
    decodes_one rfl,
    decodes_two (mk := .decZpX) rfl 0x10#8,
    decodes_two (mk := .bne) rfl 0xFC#8,
    decodes_three (mk := .jmpInd) rfl 0x10FF#16,
    decodes_one rfl,
    decodes_one rfl⟩

end Sys2Proof.Claims
end

section
/-! The stack under `STACK_WRAP` (40_sequencer.md R422): no boundary check fires, so a machine with wrap on
never records a stack fault, and a push or pull at the boundary goes on at the other end of page 1. -/

namespace Sys2Proof.Machine

/-- A machine with `STACK_WRAP` that has recorded neither stack fault. -/
def WrapsSafely (s : State) : Prop :=
  s.cfg.stackWrap = true ∧ s.fault ≠ some .stackOverflow ∧ s.fault ≠ some .stackUnderflow

theorem pushOverflows_of_wrap {s : State} (hwrap : s.cfg.stackWrap = true) :
    pushOverflows s = false := by simp [pushOverflows, hwrap]

theorem pullUnderflows_of_wrap {s : State} (hwrap : s.cfg.stackWrap = true) :
    pullUnderflows s = false := by simp [pullUnderflows, hwrap]

namespace WrapsSafely

variable {s t : State}

/-- An update of neither the configuration nor the fault keeps it. -/
theorem of_eq (hs : WrapsSafely s) (hcfg : t.cfg = s.cfg) (hfault : t.fault = s.fault) :
    WrapsSafely t := by
  unfold WrapsSafely
  rw [hcfg, hfault]
  exact hs

theorem of_running (hwrap : s.cfg.stackWrap = true) (hrun : s.fault = none) : WrapsSafely s := by
  simp [WrapsSafely, hwrap, hrun]

theorem raise_romViolation (hs : WrapsSafely s) (addr : Addr) :
    WrapsSafely (raise (.romViolation addr) s) := by
  simp [WrapsSafely, hs.1]

theorem takeIllegalOpcode (hs : WrapsSafely s) : WrapsSafely (takeIllegalOpcode s) := by
  simp [WrapsSafely, Machine.takeIllegalOpcode, hs.1]

theorem memWrite {addr : Addr} {v : Byte} {k : Rest} (hs : WrapsSafely s)
    (hk : ∀ u, k u = .next t → WrapsSafely u → WrapsSafely t)
    (h : memWrite addr v s k = .next t) : WrapsSafely t := by
  rcases memWrite_cases h with ⟨_, rfl⟩ | ⟨_, h⟩
  · exact hs.raise_romViolation addr
  · exact hk _ h (hs.of_eq rfl rfl)

theorem modify {f : Byte → Byte} {m : MemOperand} (hs : WrapsSafely s)
    (h : modify f m s = .next t) : WrapsSafely t := by
  unfold Machine.modify at h
  exact hs.memWrite (fun u hut hu => by cases hut; exact hu.of_eq rfl rfl) h

theorem put {tgt : Target} {v : Byte} {k : Rest} (hs : WrapsSafely s)
    (hk : ∀ u, k u = .next t → WrapsSafely u → WrapsSafely t)
    (h : put tgt v s k = .next t) : WrapsSafely t := by
  cases tgt with
  | acc => exact hk _ h (hs.of_eq rfl rfl)
  | mem m => exact hs.memWrite hk h

/-- With wrap on a push raises at most a ROM violation. -/
theorem push {v : Byte} {k : Rest} (hs : WrapsSafely s)
    (hk : ∀ u, k u = .next t → WrapsSafely u → WrapsSafely t)
    (h : push v s k = .next t) : WrapsSafely t := by
  rcases push_cases h with ⟨hover, _⟩ | ⟨_, _, rfl⟩ | ⟨_, _, h⟩
  · simp [pushOverflows_of_wrap hs.1] at hover
  · exact hs.raise_romViolation _
  · exact hk _ h (hs.of_eq rfl rfl)

/-- With wrap on a pull raises nothing. -/
theorem pull {k : Byte → Rest} (hs : WrapsSafely s)
    (hk : ∀ v u, k v u = .next t → WrapsSafely u → WrapsSafely t)
    (h : pull s k = .next t) : WrapsSafely t := by
  rw [pull_ok (pullUnderflows_of_wrap hs.1)] at h
  exact hk _ _ h (hs.of_eq rfl rfl)

theorem pushWord {w : Addr} {k : Rest} (hs : WrapsSafely s)
    (hk : ∀ u, k u = .next t → WrapsSafely u → WrapsSafely t)
    (h : pushWord w s k = .next t) : WrapsSafely t :=
  hs.push (fun _ hut hu => hu.push hk hut) h

theorem pullWord {k : Addr → Rest} (hs : WrapsSafely s)
    (hk : ∀ w u, k w u = .next t → WrapsSafely u → WrapsSafely t)
    (h : pullWord s k = .next t) : WrapsSafely t :=
  hs.pull (fun _ _ hut hu => hu.pull (fun _ _ hvt hv => hk _ _ hvt hv) hut) h

theorem countDraw (hs : WrapsSafely s) (m : Byte) : WrapsSafely (countDraw m s) := by
  unfold Machine.countDraw
  split
  · exact hs.of_eq rfl rfl
  · exact hs

theorem branch {cond : Bool} {d : Byte} (hs : WrapsSafely s) (h : branch cond d s = .next t) :
    WrapsSafely t := by
  cases h
  split
  · exact hs.of_eq rfl rfl
  · exact hs

/-- The rules that cannot raise a fault leave configuration and fault alone; the writing rules go through
`memWrite` and `put`, the stack rules through `push` and `pull`. -/
theorem byRule : ByRule fun _ s t => WrapsSafely s → WrapsSafely t := by
  constructor
  case lda | ldx | ldy | and | ora | eor | cmp | cpx | cpy | bit =>
    intro _ _ s t _ _ h hs
    cases h
    exact hs.of_eq rfl rfl
  case adc | sbc =>
    intro _ src s t _ _ h hs
    cases h
    exact (hs.countDraw (load src s)).of_eq rfl rfl
  case sta | stx | sty =>
    intro _ _ s t _ _ h hs
    exact hs.memWrite (fun u hut hu => by cases hut; exact hu) h
  case inc | dec =>
    intro _ _ s t _ _ h hs
    exact hs.modify h
  case asl | lsr | rol | ror =>
    intro _ _ s t _ _ _ h hs
    exact hs.put (fun u hut hu => by cases hut; exact hu.of_eq rfl rfl) h
  case bpl | bmi | bvc | bvs | bcc | bcs | bne | beq =>
    intro _ s t h hs
    exact hs.branch h
  case jmpAbs | jmpInd =>
    intro _ s t h hs
    cases h
    exact hs.of_eq rfl rfl
  case tax | tay | txa | tya | inx | dex | iny | dey | tsx | txs | clc | sec | cli | sei | cld | sed |
      clv | nop =>
    intro s t h hs
    cases h
    exact hs.of_eq rfl rfl
  case pha | php =>
    intro s t h hs
    exact hs.push (fun u hut hu => by cases hut; exact hu) h
  case pla | plp =>
    intro s t h hs
    exact hs.pull (fun _ u hut hu => by cases hut; exact hu.of_eq rfl rfl) h
  case jsr =>
    intro _ s t h hs
    exact hs.pushWord (fun u hut hu => by cases hut; exact hu.of_eq rfl rfl) h
  case brk =>
    intro s t h hs
    exact hs.pushWord (fun u hut hu => hu.push (fun v hvt hv => by
      cases hvt; exact hv.of_eq rfl rfl) hut) h
  case rts =>
    intro s t h hs
    exact hs.pullWord (fun _ u hut hu => by cases hut; exact hu.of_eq rfl rfl) h
  case rti =>
    intro s t h hs
    exact hs.pull (fun p u hut hu => (hu.of_eq (t := u.setP p) rfl rfl).pullWord
      (fun _ v hvt hv => by cases hvt; exact hv.of_eq rfl rfl) hut) h

theorem step (hwrap : s.cfg.stackWrap = true) (h : step s = .next t) : WrapsSafely t := by
  obtain ⟨hrun, ⟨_, rfl⟩ | ⟨i, _, hexec⟩⟩ := step_cases h
  · exact (of_running hwrap hrun).takeIllegalOpcode
  · exact byRule.exec i hexec ((of_running hwrap hrun).of_eq rfl rfl)

end WrapsSafely

/-- A pull at S = 0xFF with wrap on reads the bottom of page 1. -/
theorem pull_wraps {s : State} (k : Byte → Rest) (hwrap : s.cfg.stackWrap = true)
    (hsp : s.sp = 0xFF#8) : pull s k = k (s.mem.read 0x0100#16) (s.setSp 0x00#8) := by
  rw [pull_ok (pullUnderflows_of_wrap hwrap), hsp]
  rfl

theorem execPla_wraps {s : State} (hwrap : s.cfg.stackWrap = true) (hsp : s.sp = 0xFF#8) :
    execPla s = .next (setNZ (s.mem.read 0x0100#16)
      ((s.setSp 0x00#8).setA (s.mem.read 0x0100#16))) :=
  pull_wraps _ hwrap hsp

theorem execPlp_wraps {s : State} (hwrap : s.cfg.stackWrap = true) (hsp : s.sp = 0xFF#8) :
    execPlp s = .next ((s.setSp 0x00#8).setP (s.mem.read 0x0100#16)) :=
  pull_wraps _ hwrap hsp

end Sys2Proof.Machine

namespace Sys2Proof.Claims

open Sys2Proof.Machine

theorem inRom_eq_false_of_writable {s : State} {addr : Addr} (h : Writable s addr) :
    inRom s addr = false := by
  unfold Writable at h
  simp [inRom, h]

/-- A push at S = 0x00 with wrap on writes the bottom of page 1. -/
theorem push_wraps {s : State} (v : Byte) (hwrap : s.cfg.stackWrap = true) (hsp : s.sp = 0x00#8)
    (hrom : Writable s 0x0100#16) :
    push v s .next = .next { s with mem := s.mem.write 0x0100#16 v, sp := 0xFF#8 } := by
  have haddr : stackAddr s.sp = 0x0100#16 := by rw [hsp]; rfl
  have hok : inRom s (stackAddr s.sp) = false := haddr ▸ inRom_eq_false_of_writable hrom
  rw [push_ok v (pushOverflows_of_wrap hwrap) hok, haddr, hsp]
  rfl

/-- Settles O54: `WrapsSafely` holds after every step with wrap on, and at the boundary the address and the
new S are computed. -/
theorem stackWrapsWithoutFaults : Obligations.StackWrapsWithoutFaults := by
  intro s t hwrap
  refine ⟨?noFault, ?pushes, ?pulls, ?page⟩
  case noFault =>
    intro h
    exact (WrapsSafely.step hwrap h).2
  case pushes =>
    intro hsp hrom
    exact ⟨push_wraps s.a hwrap hsp hrom, push_wraps (pushedP s.p) hwrap hsp hrom⟩
  case pulls =>
    intro hsp
    exact ⟨execPlp_wraps hwrap hsp, _, execPla_wraps hwrap hsp, rfl⟩
  case page =>
    intro sp
    rw [stackAddr_toNat]
    omega

end Sys2Proof.Claims
end

section
/-! Reading instructions: the rule over its operand (40_sequencer.md R411) is specified once, and each
encoded form takes the specification over by its cell of the opcode map and its arm of `exec`. -/

namespace Sys2Proof.Machine

theorem bit7_eq_decide (v : Byte) : bit7 v = decide (128 ≤ v.toNat) := by
  unfold bit7
  rw [← BitVec.msb_eq_getLsbD_last, BitVec.msb_eq_decide]

theorem beq_zero_eq_decide (v : Byte) : (v == 0x00#8) = decide (v.toNat = 0) := by
  rw [Bool.beq_eq_decide_eq, decide_eq_decide]
  exact BitVec.toNat_eq

end Sys2Proof.Machine

namespace Sys2Proof.Claims

open Sys2Proof.Machine

/-- `SetNZ` after updates that keep P. -/
theorem nzFrom_setNZ (v : Byte) {s u : State} (hp : u.p = s.p) : NZFrom v [] s (setNZ v u) := by
  refine ⟨?n, ?z, ?others⟩
  case n => simp [flag_setNZ, bit7_eq_decide]
  case z => simp [flag_setNZ, beq_zero_eq_decide]
  case others =>
    intro f hn hz _
    rw [flag_setNZ, if_neg hz, if_neg hn, State.flag, hp, State.flag]

theorem loadsA_setNZ (v : Byte) (s : State) : LoadsA v s (setNZ v (s.setA v)) :=
  ⟨rfl, nzFrom_setNZ v (s.setA_p v)⟩

theorem loadsX_setNZ (v : Byte) (s : State) : LoadsX v s (setNZ v (s.setX v)) :=
  ⟨rfl, nzFrom_setNZ v (s.setX_p v)⟩

theorem loadsY_setNZ (v : Byte) (s : State) : LoadsY v s (setNZ v (s.setY v)) :=
  ⟨rfl, nzFrom_setNZ v (s.setY_p v)⟩

/-- From every state the rule completes, with an effect of the byte its operand loads. -/
def ReadingRule (rule : Source → State → Result) (effect : Byte → State → State → Prop) : Prop :=
  ∀ src s, ∃ t, rule src s = .next t ∧ effect (load src s) s t

namespace ReadingRule

variable {rule : Source → State → Result} {effect : Byte → State → State → Prop} {op : Byte}

theorem immediate {mk : Byte → Instr} (hrule : ReadingRule rule effect)
    (hshape : shapeOf op = some (.two mk)) (hexec : ∀ v s, exec (mk v) s = rule (.imm v) s) :
    Immediate op mk effect := by
  intro v
  refine ⟨decodes_two hshape v, fun s => ?_⟩
  rw [hexec]
  exact hrule (.imm v) s

theorem readsByte {mk : Byte → Instr} {mode : Byte → MemOperand} (hrule : ReadingRule rule effect)
    (hshape : shapeOf op = some (.two mk)) (hexec : ∀ z s, exec (mk z) s = rule (.mem (mode z)) s) :
    ReadsByte op mk mode effect := by
  intro z
  refine ⟨decodes_two hshape z, fun s => ?_⟩
  rw [hexec]
  exact hrule (.mem (mode z)) s

theorem readsWord {mk : Addr → Instr} {mode : Addr → MemOperand} (hrule : ReadingRule rule effect)
    (hshape : shapeOf op = some (.three mk))
    (hexec : ∀ w s, exec (mk w) s = rule (.mem (mode w)) s) : ReadsWord op mk mode effect := by
  intro w
  refine ⟨decodes_three hshape w, fun s => ?_⟩
  rw [hexec]
  exact hrule (.mem (mode w)) s

end ReadingRule
end Sys2Proof.Claims
end

section
/-! The loads (42_load_store_transfer.md R500 to R502): one specification for each register, one line for each
encoded form. -/

namespace Sys2Proof.Claims

open Sys2Proof.Machine

theorem ruleLda_loadsA : ReadingRule ruleLda LoadsA :=
  fun src s => ⟨_, rfl, loadsA_setNZ (load src s) s⟩

theorem ruleLdx_loadsX : ReadingRule ruleLdx LoadsX :=
  fun src s => ⟨_, rfl, loadsX_setNZ (load src s) s⟩

theorem ruleLdy_loadsY : ReadingRule ruleLdy LoadsY :=
  fun src s => ⟨_, rfl, loadsY_setNZ (load src s) s⟩

/-- Settles O26: every form of LDA runs `ruleLda` on its operand. -/
theorem ldaLoadsTheAccumulator : Obligations.LdaLoadsTheAccumulator := by
  unfold Obligations.LdaLoadsTheAccumulator
  exact ⟨
    ruleLda_loadsA.immediate rfl fun _ _ => rfl,
    ruleLda_loadsA.readsByte rfl fun _ _ => rfl,
    ruleLda_loadsA.readsByte rfl fun _ _ => rfl,
    ruleLda_loadsA.readsWord rfl fun _ _ => rfl,
    ruleLda_loadsA.readsWord rfl fun _ _ => rfl,
    ruleLda_loadsA.readsWord rfl fun _ _ => rfl,
    ruleLda_loadsA.readsByte rfl fun _ _ => rfl,
    ruleLda_loadsA.readsByte rfl fun _ _ => rfl⟩

/-- Settles O27: every form of LDX runs `ruleLdx` on its operand. -/
theorem ldxLoadsX : Obligations.LdxLoadsX := by
  unfold Obligations.LdxLoadsX
  exact ⟨
    ruleLdx_loadsX.immediate rfl fun _ _ => rfl,
    ruleLdx_loadsX.readsByte rfl fun _ _ => rfl,
    ruleLdx_loadsX.readsByte rfl fun _ _ => rfl,
    ruleLdx_loadsX.readsWord rfl fun _ _ => rfl,
    ruleLdx_loadsX.readsWord rfl fun _ _ => rfl⟩

/-- Settles O28: every form of LDY runs `ruleLdy` on its operand. -/
theorem ldyLoadsY : Obligations.LdyLoadsY := by
  unfold Obligations.LdyLoadsY
  exact ⟨
    ruleLdy_loadsY.immediate rfl fun _ _ => rfl,
    ruleLdy_loadsY.readsByte rfl fun _ _ => rfl,
    ruleLdy_loadsY.readsByte rfl fun _ _ => rfl,
    ruleLdy_loadsY.readsWord rfl fun _ _ => rfl,
    ruleLdy_loadsY.readsWord rfl fun _ _ => rfl⟩

end Sys2Proof.Claims
end

section
/-! The logical instructions (44_logical.md R600 to R603): AND, ORA and EOR load the combined byte into A, and
BIT writes flags only. -/

namespace Sys2Proof.Machine

theorem getLsbD_six_eq_decide (v : Byte) : v.getLsbD 6 = decide (64 ≤ v.toNat % 128) := by
  have hbit : v.getLsbD 6 = (v.setWidth 7).msb := by simp [BitVec.msb_eq_getLsbD_last]
  rw [hbit, BitVec.msb_eq_decide, BitVec.toNat_setWidth]

end Sys2Proof.Machine

namespace Sys2Proof.Claims

open Sys2Proof.Machine

theorem ruleAnd_loadsA : ReadingRule ruleAnd fun m s t => LoadsA (s.a &&& m) s t :=
  fun src s => ⟨_, rfl, loadsA_setNZ (s.a &&& load src s) s⟩

theorem ruleOra_loadsA : ReadingRule ruleOra fun m s t => LoadsA (s.a ||| m) s t :=
  fun src s => ⟨_, rfl, loadsA_setNZ (s.a ||| load src s) s⟩

theorem ruleEor_loadsA : ReadingRule ruleEor fun m s t => LoadsA (s.a ^^^ m) s t :=
  fun src s => ⟨_, rfl, loadsA_setNZ (s.a ^^^ load src s) s⟩

/-- Settles O37: every form of AND, ORA and EOR runs its rule on its operand. -/
theorem andOraEorCombineWithA : Obligations.AndOraEorCombineWithA := by
  unfold Obligations.AndOraEorCombineWithA
  exact ⟨
    ruleAnd_loadsA.immediate rfl fun _ _ => rfl,
    ruleAnd_loadsA.readsByte rfl fun _ _ => rfl,
    ruleAnd_loadsA.readsByte rfl fun _ _ => rfl,
    ruleAnd_loadsA.readsWord rfl fun _ _ => rfl,
    ruleAnd_loadsA.readsWord rfl fun _ _ => rfl,
    ruleAnd_loadsA.readsWord rfl fun _ _ => rfl,
    ruleAnd_loadsA.readsByte rfl fun _ _ => rfl,
    ruleAnd_loadsA.readsByte rfl fun _ _ => rfl,
    ruleOra_loadsA.immediate rfl fun _ _ => rfl,
    ruleOra_loadsA.readsByte rfl fun _ _ => rfl,
    ruleOra_loadsA.readsByte rfl fun _ _ => rfl,
    ruleOra_loadsA.readsWord rfl fun _ _ => rfl,
    ruleOra_loadsA.readsWord rfl fun _ _ => rfl,
    ruleOra_loadsA.readsWord rfl fun _ _ => rfl,
    ruleOra_loadsA.readsByte rfl fun _ _ => rfl,
    ruleOra_loadsA.readsByte rfl fun _ _ => rfl,
    ruleEor_loadsA.immediate rfl fun _ _ => rfl,
    ruleEor_loadsA.readsByte rfl fun _ _ => rfl,
    ruleEor_loadsA.readsByte rfl fun _ _ => rfl,
    ruleEor_loadsA.readsWord rfl fun _ _ => rfl,
    ruleEor_loadsA.readsWord rfl fun _ _ => rfl,
    ruleEor_loadsA.readsWord rfl fun _ _ => rfl,
    ruleEor_loadsA.readsByte rfl fun _ _ => rfl,
    ruleEor_loadsA.readsByte rfl fun _ _ => rfl⟩

/-- What BIT leaves (44_logical.md R603). -/
def TestsBits (m : Byte) (s t : State) : Prop :=
  t = { s with p := t.p } ∧ t.flag .z = decide (s.a &&& m = 0) ∧
    t.flag .n = decide (128 ≤ m.toNat) ∧ t.flag .v = decide (64 ≤ m.toNat % 128) ∧
    ∀ f, f ∉ [Flag.z, .n, .v] → t.flag f = s.flag f

/-- BIT takes a memory operand only, so it is not a `ReadingRule`. -/
theorem ruleBit_testsBits (opnd : MemOperand) (s : State) :
    ∃ t, ruleBit opnd s = .next t ∧ TestsBits (load (.mem opnd) s) s t := by
  refine ⟨_, rfl, rfl, ?z, ?n, ?v, ?others⟩
  case z => simp [State.flag_setFlag, Bool.beq_eq_decide_eq]
  case n => simp [State.flag_setFlag, bit7_eq_decide]
  case v => simpa [State.flag_setFlag] using getLsbD_six_eq_decide (load (.mem opnd) s)
  case others =>
    intro f hf
    obtain ⟨hz, hn, hv⟩ : f ≠ .z ∧ f ≠ .n ∧ f ≠ .v := by simpa using hf
    simp [State.flag_setFlag, hz, hn, hv]

/-- Settles O38: both forms of BIT run `ruleBit` on their operand. -/
theorem bitTestsWithoutWritingA : Obligations.BitTestsWithoutWritingA := by
  unfold Obligations.BitTestsWithoutWritingA
  exact ⟨
    fun z => ⟨decodes_two rfl z, ruleBit_testsBits (.zeroPage z)⟩,
    fun w => ⟨decodes_three rfl w, ruleBit_testsBits (.absolute w)⟩⟩

end Sys2Proof.Claims
end

section
/-! Comparisons and index counters (46_compare_incdec.md R700 to R703, R706 to R709): `Compare` leaves what the
difference in integers says, and a count by one is a load of the new value. -/

namespace Sys2Proof.Machine

theorem sub_eq_ofNat (r m : Byte) : r - m = BitVec.ofNat 8 (r.toNat + 256 - m.toNat) := by
  bv_omega

theorem add_one_eq_ofNat (v : Byte) : v + 1 = BitVec.ofNat 8 (v.toNat + 1) := by
  bv_omega

theorem sub_one_eq_ofNat (v : Byte) : v - 1 = BitVec.ofNat 8 (v.toNat + 255) :=
  sub_eq_ofNat v 1

/-- `compare` takes Z from equality, `Claims.Compares` from the difference. -/
theorem beq_eq_decide_sub (r m : Byte) : (r == m) = decide ((r - m).toNat = 0) := by
  rw [Bool.beq_eq_decide_eq, decide_eq_decide]
  bv_omega

end Sys2Proof.Machine

namespace Sys2Proof.Claims

open Sys2Proof.Machine

theorem compares_compare (reg : State → Byte) (m : Byte) (s : State) :
    Compares reg m s (compare (reg s) m s) := by
  refine ⟨rfl, ?c, ?nz⟩
  case c => simp [flag_compare]
  case nz =>
    rw [← sub_eq_ofNat]
    refine ⟨?n, ?z, ?others⟩
    case n => simp [flag_compare, bit7_eq_decide]
    case z => simp [flag_compare, beq_eq_decide_sub]
    case others =>
      intro f hn hz hc
      rw [List.mem_singleton] at hc
      simp [flag_compare, hn, hz, hc]

theorem ruleCmp_compares : ReadingRule ruleCmp (Compares State.a) :=
  fun src s => ⟨_, rfl, compares_compare State.a (load src s) s⟩

theorem ruleCpx_compares : ReadingRule ruleCpx (Compares State.x) :=
  fun src s => ⟨_, rfl, compares_compare State.x (load src s) s⟩

theorem ruleCpy_compares : ReadingRule ruleCpy (Compares State.y) :=
  fun src s => ⟨_, rfl, compares_compare State.y (load src s) s⟩

/-- Settles O41: every form of CMP, CPX and CPY runs its rule on its operand. -/
theorem comparesSetNoBorrowZeroAndSign : Obligations.ComparesSetNoBorrowZeroAndSign := by
  unfold Obligations.ComparesSetNoBorrowZeroAndSign
  exact ⟨
    ruleCmp_compares.immediate rfl fun _ _ => rfl,
    ruleCmp_compares.readsByte rfl fun _ _ => rfl,
    ruleCmp_compares.readsByte rfl fun _ _ => rfl,
    ruleCmp_compares.readsWord rfl fun _ _ => rfl,
    ruleCmp_compares.readsWord rfl fun _ _ => rfl,
    ruleCmp_compares.readsWord rfl fun _ _ => rfl,
    ruleCmp_compares.readsByte rfl fun _ _ => rfl,
    ruleCmp_compares.readsByte rfl fun _ _ => rfl,
    ruleCpx_compares.immediate rfl fun _ _ => rfl,
    ruleCpx_compares.readsByte rfl fun _ _ => rfl,
    ruleCpx_compares.readsWord rfl fun _ _ => rfl,
    ruleCpy_compares.immediate rfl fun _ _ => rfl,
    ruleCpy_compares.readsByte rfl fun _ _ => rfl,
    ruleCpy_compares.readsWord rfl fun _ _ => rfl⟩

theorem execInx_loadsX (s : State) :
    ∃ t, execInx s = .next t ∧ LoadsX (BitVec.ofNat 8 (s.x.toNat + 1)) s t := by
  rw [← add_one_eq_ofNat]
  exact ⟨_, rfl, loadsX_setNZ (s.x + 1) s⟩

theorem execDex_loadsX (s : State) :
    ∃ t, execDex s = .next t ∧ LoadsX (BitVec.ofNat 8 (s.x.toNat + 255)) s t := by
  rw [← sub_one_eq_ofNat]
  exact ⟨_, rfl, loadsX_setNZ (s.x - 1) s⟩

theorem execIny_loadsY (s : State) :
    ∃ t, execIny s = .next t ∧ LoadsY (BitVec.ofNat 8 (s.y.toNat + 1)) s t := by
  rw [← add_one_eq_ofNat]
  exact ⟨_, rfl, loadsY_setNZ (s.y + 1) s⟩

theorem execDey_loadsY (s : State) :
    ∃ t, execDey s = .next t ∧ LoadsY (BitVec.ofNat 8 (s.y.toNat + 255)) s t := by
  rw [← sub_one_eq_ofNat]
  exact ⟨_, rfl, loadsY_setNZ (s.y - 1) s⟩

/-- Settles O43: each counter loads the sum modulo 256 into its register; a decrement adds 255. -/
theorem indexRegistersCountModulo256 : Obligations.IndexRegistersCountModulo256 := by
  unfold Obligations.IndexRegistersCountModulo256
  exact ⟨
    ⟨decodes_one rfl, execInx_loadsX⟩,
    ⟨decodes_one rfl, execDex_loadsX⟩,
    ⟨decodes_one rfl, execIny_loadsY⟩,
    ⟨decodes_one rfl, execDey_loadsY⟩⟩

end Sys2Proof.Claims
end

section
/-! The flag instructions (48_stack_flag.md R810 to R816): each is one `setFlag`, which writes the named flag
and nothing else. -/

namespace Sys2Proof.Claims

open Sys2Proof.Machine

theorem writesFlag_setFlag (f : Flag) (b : Bool) (s : State) : WritesFlag f b s (s.setFlag f b) := by
  refine ⟨rfl, ?named, ?others⟩
  case named => simp [State.flag_setFlag]
  case others =>
    intro g hg
    simp [State.flag_setFlag, hg]

/-- A one-byte form whose meaning is a single flag write. -/
theorem does_writesFlag {op : Byte} {i : Instr} {f : Flag} {b : Bool}
    (hshape : shapeOf op = some (.one i)) (hexec : ∀ s, exec i s = .next (s.setFlag f b)) :
    Does [op] i (WritesFlag f b) :=
  ⟨decodes_one hshape, fun s => ⟨s.setFlag f b, hexec s, writesFlag_setFlag f b s⟩⟩

/-- Settles O55: the cell of each opcode holds its instruction, whose meaning is one flag write. -/
theorem flagOperationsWriteOneFlag : Obligations.FlagOperationsWriteOneFlag := by
  unfold Obligations.FlagOperationsWriteOneFlag
  exact ⟨
    does_writesFlag rfl fun _ => rfl,
    does_writesFlag rfl fun _ => rfl,
    does_writesFlag rfl fun _ => rfl,
    does_writesFlag rfl fun _ => rfl,
    does_writesFlag rfl fun _ => rfl,
    does_writesFlag rfl fun _ => rfl,
    does_writesFlag rfl fun _ => rfl⟩

end Sys2Proof.Claims
end

section
/-! The step of a running machine from the instruction at PC (40_sequencer.md R402): the converse of
`step_cases`. With it, NOP (49_control.md R851): its meaning is to change nothing, so its step is the advance
of PC alone. -/

namespace Sys2Proof.Claims

open Sys2Proof.Machine

theorem fetch_of_decode {s : State} {i : Instr} {rest : List Byte}
    (h : decode (fetchBytes s) = .ok (i, rest)) : fetch s = some i := by
  simp [fetch, h]

theorem step_of_fetch {s : State} {i : Instr} (hrun : s.fault = none) (h : fetch s = some i) :
    step s = exec i (advance i s) := by
  simp [step, hrun, h]

/-- An opcode whose cell is a one-byte form runs that form, whatever the two bytes after it. -/
theorem step_of_one {s : State} {op : Byte} {i : Instr} (hshape : shapeOf op = some (.one i))
    (hrun : s.fault = none) (hop : s.mem.read s.pc = op) : step s = exec i (advance i s) := by
  have hbytes : fetchBytes s = [op] ++ [memRead s (s.pc + 1), memRead s (s.pc + 2)] := by
    simp [fetchBytes, memRead, hop]
  have hdecode := decodes_one hshape [memRead s (s.pc + 1), memRead s (s.pc + 2)]
  exact step_of_fetch hrun (fetch_of_decode (hbytes ▸ hdecode))

theorem exec_nop (s : State) : exec .nop s = .next s := rfl

theorem advance_nop (s : State) : advance .nop s = { s with pc := s.pc + 1 } := rfl

/-- Settles O56: the cell of 0xEA holds NOP, whose meaning is the identity; what is left of its step is the
advance over its one byte. -/
theorem nopChangesNothing : Obligations.NopChangesNothing := by
  unfold Obligations.NopChangesNothing
  have hshape : shapeOf 0xEA#8 = some (.one .nop) := rfl
  refine ⟨⟨decodes_one hshape, fun s => ⟨s, exec_nop s, rfl⟩⟩, ?step⟩
  case step =>
    intro s hrun hop
    calc step s = exec .nop (advance .nop s) := step_of_one hshape hrun hop
      _ = .next (advance .nop s) := exec_nop _
      _ = .next { s with pc := s.pc + 1 } := by rw [advance_nop]

end Sys2Proof.Claims
end

section
/-! The illegal opcode (60_exceptions.md R912): an opcode with no cell in the decode map fetches no
instruction, whatever the two bytes after it, and the step records the fault and nothing else. -/

namespace Sys2Proof.Machine

theorem shapeOf_eq_none_of_decodeOpcode {op : Byte} (h : decodeOpcode op = none) :
    shapeOf op = none := by
  simpa [decodeOpcode] using h

theorem decode_of_illegal {op : Byte} (h : decodeOpcode op = none) (tail : List Byte) :
    decode (op :: tail) = .error (.illegalOpcode op) := by
  simp [decode, shapeOf_eq_none_of_decodeOpcode h]

theorem fetch_of_illegal {s : State} (h : decodeOpcode (s.mem.read s.pc) = none) :
    fetch s = none := by
  simp [fetch, fetchBytes, memRead, decode_of_illegal h]

theorem step_of_fetch_none {s : State} (hrun : s.fault = none) (h : fetch s = none) :
    step s = .next (takeIllegalOpcode s) := by
  simp [step, hrun, h]

theorem outcomeOf_faulted {t : State} {f : Fault} (h : t.fault = some f) :
    outcomeOf t = .faulted f := by
  simp [outcomeOf, h]

/-- The host's view of a step that answers a next state with a fault recorded in it (log 1). -/
theorem hostStep_of_next_faulted {s t : State} {f : Fault} (hstep : step s = .next t)
    (hfault : t.fault = some f) : hostStep (.live s) = .ok (.faulted f, .live t) := by
  simp [hostStep, hstep, outcomeOf_faulted hfault]

end Sys2Proof.Machine

namespace Sys2Proof.Claims

open Sys2Proof.Machine

/-- Settles O6: nothing is fetched, so the step takes the illegal opcode, which is to raise the fault in the
state before the step. -/
theorem illegalOpcodeRollsBack : Obligations.IllegalOpcodeRollsBack := by
  intro s hrun hillegal
  have hstep : step s = .next (takeIllegalOpcode s) :=
    step_of_fetch_none hrun (fetch_of_illegal hillegal)
  exact hostStep_of_next_faulted hstep (raise_fault _ s)

end Sys2Proof.Claims
end

section
/-! What every step keeps, from the relation of elementary updates (Laws/Updates.lean): the canonical form of
memory, the configuration, and the bytes at or above `ROM_START` (20_memory.md R202, R203). -/

namespace Sys2Proof.Machine

/-- A relation that holds between states with the same memory and configuration, and of a write below
`ROM_START`, holds of every elementary update. -/
theorem Updates.of_write {R : State → State → Prop} (trans : ∀ {s t u}, R s t → R t u → R s u)
    (same : ∀ {s t : State}, t.mem = s.mem → t.cfg = s.cfg → R s t)
    (write : ∀ s addr v, inRom s addr = false → R s (s.setMem (s.mem.write addr v))) : Updates R where
  refl _ := same rfl rfl
  trans := trans
  setA _ _ := same rfl rfl
  setX _ _ := same rfl rfl
  setY _ _ := same rfl rfl
  setSp _ _ := same rfl rfl
  setP _ _ := same rfl rfl
  setPc _ _ := same rfl rfl
  setDraws _ _ := same rfl rfl
  raise _ _ := same rfl rfl
  write := write

theorem updates_keep_wellFormed : Updates fun s t => s.WellFormed → t.WellFormed := by
  refine .of_write (fun hst htu hs => htu (hst hs)) ?same ?write
  case same =>
    intro s t hmem _ hs
    unfold State.WellFormed
    rw [hmem]
    exact hs
  case write =>
    intro s addr v _ hs
    exact s.mem.write_wf addr v hs

theorem updates_keep_cfg : Updates fun s t => t.cfg = s.cfg :=
  .of_write (fun hst htu => htu.trans hst) (fun _ hcfg => hcfg) (fun _ _ _ _ => rfl)

/-- The boundary is part of the relation: it must stand still for the bytes above it to. -/
theorem updates_keep_rom : Updates fun s t => t.cfg = s.cfg ∧
    ∀ addr, inRom s addr = true → t.mem.read addr = s.mem.read addr := by
  refine .of_write ?trans ?same ?write
  case trans =>
    intro s t u ⟨hcfg, hrom⟩ ⟨hcfg', hrom'⟩
    refine ⟨hcfg'.trans hcfg, fun addr h => ?_⟩
    have ht : inRom t addr = true := by simpa [inRom, hcfg] using h
    exact (hrom' addr ht).trans (hrom addr h)
  case same =>
    intro s t hmem hcfg
    exact ⟨hcfg, fun addr _ => by rw [hmem]⟩
  case write =>
    intro s p v hp
    refine ⟨rfl, fun addr h => s.mem.read_write_other p addr v ?_⟩
    rintro rfl
    simp [hp] at h

end Sys2Proof.Machine

namespace Sys2Proof.Claims

open Sys2Proof.Machine

/-- Settles O14: a write keeps the canonical form, and nothing else touches memory. -/
theorem stepKeepsCanonicalMemory : Obligations.StepKeepsCanonicalMemory :=
  fun _ _ hs h => updates_keep_wellFormed.step h hs

/-- Settles O16: the only write a step makes is below `ROM_START`. -/
theorem romIsReadOnlyToTheCore : Obligations.RomIsReadOnlyToTheCore := by
  intro s t addr h hrom
  obtain ⟨_, hkeeps⟩ := updates_keep_rom.step h
  exact hkeeps addr ((inRom_iff addr).mpr hrom)

/-- Settles O15: no elementary update writes the configuration. -/
theorem configurationChangesOnlyAtReset : Obligations.ConfigurationChangesOnlyAtReset :=
  ⟨fun _ _ h => updates_keep_cfg.step h, fun _ _ _ => rfl⟩

/-- Settles O9: a running machine steps to a next state, and a halted one re-reports its fault. -/
theorem everyStepReportsAnOutcome : Obligations.EveryStepReportsAnOutcome := by
  intro s
  cases hfault : s.fault with
  | none =>
    obtain ⟨t, ht⟩ := step_total hfault
    exact ⟨⟨outcomeOf t, t, by simp [hostStep, ht]⟩, by simp [ht]⟩
  | some f =>
    exact ⟨⟨.faulted f, s, hostStep_halted hfault⟩, by simp [step_halted hfault]⟩

/-- Settles O13. -/
theorem resetStateIsCanonicalAndRunning : Obligations.ResetStateIsCanonicalAndRunning :=
  ⟨Memory.wf_nil, reset_running⟩

end Sys2Proof.Claims
end

section
/-! The Decoder and the encoder (30_encoding.md R300 to R322) are inverse to each other: every instruction
decodes from its encoding by the cell of its opcode, and every cell of the map encodes back to its opcode. -/

namespace Sys2Proof

/-- The bytes a format takes, of the two after the opcode (30_encoding.md R301). -/
def Shape.operandBytes : Shape → Byte → Byte → List Byte
  | .one _, _, _ => []
  | .two _, op8, _ => [op8]
  | .three _, lo, hi => [lo, hi]

/-- The instruction a cell of the map makes encodes as the cell's own opcode, then the bytes it took. -/
theorem encode_build {op : Byte} {sh : Shape} (h : shapeOf op = some sh) (lo hi : Byte) :
    encode (sh.build lo hi) = op :: sh.operandBytes lo hi := by
  revert sh
  induction op using byte_cases with
  | h n hn =>
    intro sh h
    interval_cases n <;> cases h <;> simp [Shape.build, Shape.operandBytes, encode]

theorem Laws.Encoding.statement (i : Instr) : Laws.Encoding.Statement i := by
  cases i <;> exact ⟨rfl, rfl, _, rfl, rfl⟩

theorem encode_of_decode {bytes rest : List Byte} {i : Instr} (h : decode bytes = .ok (i, rest)) :
    bytes = encode i ++ rest := by
  obtain ⟨op, tail, rfl, ⟨hsh, rfl⟩ | ⟨mk, b, hsh, rfl, rfl⟩ | ⟨mk, lo, hi, hsh, rfl, rfl⟩⟩ :=
    decode_cases h
  · exact congrArg (· ++ tail) (encode_build hsh 0 0).symm
  · exact congrArg (· ++ rest) (encode_build hsh b 0).symm
  · exact congrArg (· ++ rest) (encode_build hsh lo hi).symm

/-- What decodes from an opcode has the descriptor of that opcode, whatever the bytes after it (R322). -/
theorem decodeOpcode_of_decode {op : Byte} {tail rest : List Byte} {i : Instr}
    (h : decode (op :: tail) = .ok (i, rest)) : decodeOpcode op = some i.descriptor := by
  obtain ⟨_, _, op', hhead, hdecode⟩ := Laws.Encoding.statement i
  have hop : op = op' := by
    have := congrArg List.head? (encode_of_decode h)
    simpa [List.head?_append, hhead] using this
  rw [hop, hdecode]

end Sys2Proof

namespace Sys2Proof.Claims

open Sys2Proof.Machine

/-- Settles O2: the opcode of each instruction selects the cell that holds it, and the cell's format takes
the operand bytes. -/
theorem decodeInvertsEncode : Obligations.DecodeInvertsEncode := by
  intro i rest _
  match i with
  | .tax | .tay | .txa | .tya | .inx | .dex | .iny | .dey | .rts | .rti | .pha | .pla | .php | .plp
  | .tsx | .txs | .clc | .sec | .cli | .sei | .cld | .sed | .clv | .brk | .nop
  | .aslAcc | .lsrAcc | .rolAcc | .rorAcc => exact decodes_one rfl rest
  | .ldaImm b | .ldxImm b | .ldyImm b | .adcImm b | .sbcImm b | .andImm b | .oraImm b | .eorImm b
  | .cmpImm b | .cpxImm b | .cpyImm b
  | .ldaZp b | .ldxZp b | .ldyZp b | .staZp b | .stxZp b | .styZp b | .adcZp b | .sbcZp b
  | .andZp b | .oraZp b | .eorZp b | .bitZp b | .aslZp b | .lsrZp b | .rolZp b | .rorZp b
  | .cmpZp b | .cpxZp b | .cpyZp b | .incZp b | .decZp b
  | .ldaZpX b | .ldyZpX b | .staZpX b | .styZpX b | .adcZpX b | .sbcZpX b | .andZpX b | .oraZpX b
  | .eorZpX b | .aslZpX b | .lsrZpX b | .rolZpX b | .rorZpX b | .cmpZpX b | .incZpX b | .decZpX b
  | .ldxZpY b | .stxZpY b
  | .ldaIndX b | .staIndX b | .adcIndX b | .sbcIndX b | .andIndX b | .oraIndX b | .eorIndX b
  | .cmpIndX b | .ldaIndY b | .staIndY b | .adcIndY b | .sbcIndY b | .andIndY b | .oraIndY b
  | .eorIndY b | .cmpIndY b
  | .bpl b | .bmi b | .bvc b | .bvs b | .bcc b | .bcs b | .bne b | .beq b =>
    exact decodes_two rfl b rest
  | .ldaAbs w | .ldxAbs w | .ldyAbs w | .staAbs w | .stxAbs w | .styAbs w | .adcAbs w | .sbcAbs w
  | .andAbs w | .oraAbs w | .eorAbs w | .bitAbs w | .aslAbs w | .lsrAbs w | .rolAbs w | .rorAbs w
  | .cmpAbs w | .cpxAbs w | .cpyAbs w | .incAbs w | .decAbs w | .jmpAbs w | .jsr w
  | .ldaAbsX w | .ldyAbsX w | .staAbsX w | .adcAbsX w | .sbcAbsX w | .andAbsX w | .oraAbsX w
  | .eorAbsX w | .aslAbsX w | .lsrAbsX w | .rolAbsX w | .rorAbsX w | .cmpAbsX w | .incAbsX w
  | .decAbsX w
  | .ldaAbsY w | .ldxAbsY w | .staAbsY w | .adcAbsY w | .sbcAbsY w | .andAbsY w | .oraAbsY w
  | .eorAbsY w | .cmpAbsY w | .jmpInd w => exact decodes_three rfl w rest

/-- Settles O3: the bytes are an opcode of the map and the operand bytes of its cell, which is what the
instruction the cell makes encodes as. -/
theorem encodeInvertsDecode : Obligations.EncodeInvertsDecode := by
  intro bytes rest i h
  obtain ⟨hlength, _⟩ := Laws.Encoding.statement i
  exact ⟨encode_of_decode h, hlength⟩

/-- Settles O4: the two facts about the map alone are computed over its 256 cells. -/
theorem decoderIsTotalOverOpcodes : Obligations.DecoderIsTotalOverOpcodes := by
  refine ⟨?illegal, ?wellFormed, ?descriptor, ?count, ?distinct⟩
  case illegal => decide
  case wellFormed =>
    have hmap : ∀ op : Byte, ∀ d ∈ decodeOpcode op, d.wellFormed = true := by decide
    exact fun op d h => hmap op d h
  case descriptor =>
    intro op tail rest i h
    exact decodeOpcode_of_decode h
  case count => rfl
  case distinct => decide

/-- Settles O5: `step_of_fetch`, with `advance` written out. -/
theorem stepRunsTheDecodedInstruction : Obligations.StepRunsTheDecodedInstruction :=
  fun _ _ _ hrun hdecode => step_of_fetch hrun (fetch_of_decode hdecode)

/-- Settles O8: `stepAccesses` follows the outcome of the fetch. -/
theorem haltedStepMakesNoAccess : Obligations.HaltedStepMakesNoAccess := by
  intro s
  constructor
  · intro f hfault
    simp [stepAccesses, hfault]
  · intro hrun hillegal
    simp [stepAccesses, hrun, fetch_of_illegal hillegal]

end Sys2Proof.Claims
end

section
/-! Canonical memories as functions (20_memory.md R200): what a canonical list says of its first cell, and from
it that reading determines the list; and the bytes a host load leaves (60_exceptions.md R960). -/

namespace Sys2Proof.Machine

/-- A canonical list with a first cell: the cell's address is in range and its byte listed, and the rest is
canonical from the next address on. -/
theorem Memory.wfFrom_cons {lo k : Nat} {v : Byte} {rest : Memory} :
    Memory.wfFrom lo ((k, v) :: rest) = true ↔
      lo ≤ k ∧ k < 2 ^ 16 ∧ v ≠ Memory.unlisted ∧ Memory.wfFrom (k + 1) rest = true := by
  simp [Memory.wfFrom, and_assoc]

theorem Memory.read_cons_same {k : Nat} (hk : k < 2 ^ 16) (v : Byte) (rest : Memory) :
    Memory.read ((k, v) :: rest) (BitVec.ofNat 16 k) = v := by
  have haddr : k = (BitVec.ofNat 16 k).toNat := (Nat.mod_eq_of_lt hk).symm
  simp only [Memory.read, if_pos haddr]

theorem Memory.read_cons_other {k : Nat} {addr : Addr} (h : k ≠ addr.toNat) (v : Byte) (rest : Memory) :
    Memory.read ((k, v) :: rest) addr = rest.read addr := by
  simp [Memory.read, h]

/-- A memory that reads a listed byte at a first cell's address lists nothing from a higher address on. -/
theorem Memory.le_of_read_cons {k lo : Nat} {v : Byte} {rest m : Memory} (hk : k < 2 ^ 16)
    (hv : v ≠ Memory.unlisted) (hm : Memory.wfFrom lo m = true)
    (heq : ∀ addr, Memory.read ((k, v) :: rest) addr = m.read addr) : lo ≤ k := by
  by_contra hlo
  have hunlisted := m.read_of_wfFrom lo (BitVec.ofNat 16 k) hm (by simp; omega)
  rw [← heq, read_cons_same hk] at hunlisted
  exact hv hunlisted

theorem Memory.eq_of_read_eq {m m' : Memory} {lo lo' : Nat} (hm : Memory.wfFrom lo m = true)
    (hm' : Memory.wfFrom lo' m' = true) (heq : ∀ addr, m.read addr = m'.read addr) : m = m' := by
  induction m generalizing lo m' lo' with
  | nil =>
    cases m' with
    | nil => rfl
    | cons c rest' =>
      obtain ⟨_, hk, hv, _⟩ := wfFrom_cons.mp hm'
      exact absurd ((read_cons_same hk c.2 rest').symm.trans (heq _).symm) hv
  | cons c rest ih =>
    obtain ⟨k, v⟩ := c
    obtain ⟨_, hk, hv, hrest⟩ := wfFrom_cons.mp hm
    cases m' with
    | nil => exact absurd ((read_cons_same hk v rest).symm.trans (heq _)) hv
    | cons c' rest' =>
      obtain ⟨k', v'⟩ := c'
      obtain ⟨_, hk', hv', hrest'⟩ := wfFrom_cons.mp hm'
      have hkk' : k' = k := by
        refine Nat.le_antisymm (le_of_read_cons (lo := k') hk hv ?_ heq)
          (le_of_read_cons (lo := k) hk' hv' ?_ fun addr => (heq addr).symm)
        · exact wfFrom_cons.mpr ⟨le_rfl, hk', hv', hrest'⟩
        · exact wfFrom_cons.mpr ⟨le_rfl, hk, hv, hrest⟩
      subst hkk'
      have hvv' : v = v' := by
        simpa only [read_cons_same hk] using heq (BitVec.ofNat 16 k')
      have hrests : rest = rest' := by
        refine ih hrest hrest' fun addr => ?_
        by_cases haddr : k' = addr.toNat
        · rw [read_of_wfFrom _ _ addr hrest (by omega), read_of_wfFrom _ _ addr hrest' (by omega)]
        · rw [← read_cons_other haddr v, heq, read_cons_other haddr]
      rw [hvv', hrests]

/-- The memory that holds the bytes of a function at the addresses below `n`. -/
def Memory.ofFunction (f : Addr → Byte) : Nat → Memory
  | 0 => []
  | n + 1 => (Memory.ofFunction f n).write (BitVec.ofNat 16 n) (f (BitVec.ofNat 16 n))

theorem Memory.ofFunction_wf (f : Addr → Byte) (n : Nat) : (Memory.ofFunction f n).wf = true := by
  induction n with
  | zero => exact Memory.wf_nil
  | succ n ih => exact Memory.write_wf _ _ _ ih

theorem Memory.read_ofFunction (f : Addr → Byte) (n : Nat) (addr : Addr) (h : addr.toNat < n) :
    (Memory.ofFunction f n).read addr = f addr := by
  induction n with
  | zero => omega
  | succ n ih =>
    unfold Memory.ofFunction
    by_cases haddr : addr = BitVec.ofNat 16 n
    · rw [← haddr, Memory.read_write_same _ _ _ (ofFunction_wf f n)]
    · have hne : addr.toNat ≠ n := by
        rintro rfl
        simp at haddr
      rw [Memory.read_write_other _ _ _ _ haddr, ih (by omega)]

/-- Three bytes loaded from an address on read back, each at its own address. -/
theorem fetchBytes_load_three {s : State} (hs : s.WellFormed) (b₀ b₁ b₂ : Byte) :
    fetchBytes (s.setMem (s.mem.load s.pc [b₀, b₁, b₂])) = [b₀, b₁, b₂] := by
  have hload : s.mem.load s.pc [b₀, b₁, b₂] =
      ((s.mem.write s.pc b₀).write (s.pc + 1) b₁).write (s.pc + 2) b₂ := by
    have hnext : s.pc + 1 + 1 = s.pc + 2 := by bv_omega
    simp only [Memory.load, hnext]
  have hwf₀ := s.mem.write_wf s.pc b₀ hs
  have hwf₁ := Memory.write_wf _ (s.pc + 1) b₁ hwf₀
  have h₀₁ : s.pc ≠ s.pc + 1 := by bv_omega
  have h₀₂ : s.pc ≠ s.pc + 2 := by bv_omega
  have h₁₂ : s.pc + 1 ≠ s.pc + 2 := by bv_omega
  simp only [fetchBytes, memRead, State.setMem_mem, State.setMem_pc, hload]
  rw [Memory.read_write_same _ _ _ hwf₁, Memory.read_write_other _ _ _ _ h₁₂,
    Memory.read_write_same _ _ _ hwf₀, Memory.read_write_other _ _ _ _ h₀₂,
    Memory.read_write_other _ _ _ _ h₀₁, Memory.read_write_same _ _ _ hs]

end Sys2Proof.Machine

namespace Sys2Proof.Claims

open Sys2Proof.Machine

/-- Settles O23: writing a function's bytes one by one makes a canonical list, and the first cells of two
canonical lists that read alike are the same. -/
theorem canonicalMemoriesAreTotalFunctions : Obligations.CanonicalMemoriesAreTotalFunctions := by
  refine ⟨fun f => ⟨Memory.ofFunction f (2 ^ 16), ?wf, ?reads⟩, ?unique⟩
  case wf => exact Memory.ofFunction_wf f _
  case reads =>
    intro addr
    exact Memory.read_ofFunction f _ addr addr.isLt
  case unique =>
    intro m m' hm hm' heq
    exact Memory.eq_of_read_eq hm hm' heq

/-- Settles O59: the three bytes of the word are those fetched, so the fetch is the decoding of the word. -/
theorem loadedWordRunsNext : Obligations.LoadedWordRunsNext := by
  intro s nbits w i hs hword
  refine ⟨?runs, ?canonical, rfl⟩
  case runs =>
    have hbytes : fetchBytes (s.withFetchWord nbits w) = tableBytes nbits w :=
      fetchBytes_load_three hs _ _ _
    have hfetch : fetch (s.withFetchWord nbits w) = decodeTableWord nbits w := by
      rw [fetch, hbytes]
      rfl
    exact step_of_fetch rfl (hfetch.trans hword)
  case canonical => exact Memory.load_wf _ s.mem s.pc hs

end Sys2Proof.Claims
end

section
/-! The stack operations in sequence (40_sequencer.md R420 to R423): what a list of pushes and what a pulled
word can do, with the accesses made up to the first fault (20_memory.md R207). -/

namespace Sys2Proof.Machine

open Sys2Proof.Claims (pushed stackByte)

theorem stackByte_eq_stackAddr (sp : Byte) : stackByte sp = stackAddr sp := by
  have h := sp.isLt
  apply BitVec.eq_of_toNat_eq
  rw [stackAddr_toNat, stackByte, BitVec.toNat_ofNat]
  omega

/-- The fault a push raises: the stack check comes before the ROM check (R420, 92_eei_decisions.md D19). -/
def pushFault (s : State) : Option Fault :=
  if pushOverflows s then some .stackOverflow
  else if inRom s (stackAddr s.sp) then some (.romViolation (stackAddr s.sp))
  else none

theorem pushFault_eq_none_iff {s : State} :
    pushFault s = none ↔ pushOverflows s = false ∧ inRom s (stackAddr s.sp) = false := by
  unfold pushFault
  cases pushOverflows s <;> cases inRom s (stackAddr s.sp) <;> simp

theorem push_of_no_fault {s : State} (v : Byte) (rest : Rest) (h : pushFault s = none) :
    push v s rest = rest (pushed v s) := by
  obtain ⟨hover, hrom⟩ := pushFault_eq_none_iff.mp h
  rw [push_ok v hover hrom, ← stackByte_eq_stackAddr]
  rfl

theorem push_of_fault {s : State} {f : Fault} (v : Byte) (rest : Rest) (h : pushFault s = some f) :
    push v s rest = .next (raise f s) := by
  unfold pushFault at h
  unfold push
  cases hover : pushOverflows s with
  | true => simp_all
  | false =>
    cases hrom : inRom s (stackAddr s.sp) with
    | true => simp_all [memWrite_rom]
    | false => simp_all

theorem pushAccesses_congr {s u : State} (n : Nat) (hsp : u.sp = s.sp) (hcfg : u.cfg = s.cfg) :
    pushAccesses n u = pushAccesses n s := by
  induction n generalizing s u with
  | zero => rfl
  | succ n ih =>
    have hnext : pushAccesses n (u.setSp (s.sp - 1)) = pushAccesses n (s.setSp (s.sp - 1)) :=
      ih rfl hcfg
    have hover : pushOverflows u = pushOverflows s := by simp [pushOverflows, hsp, hcfg]
    have hrom : inRom u (stackAddr s.sp) = inRom s (stackAddr s.sp) := by simp [inRom, hcfg]
    rw [pushAccesses, pushAccesses, hsp, hover, hrom, hnext]

theorem pushAccesses_of_no_fault {s : State} (n : Nat) (v : Byte) (h : pushFault s = none) :
    pushAccesses (n + 1) s = .write (stackAddr s.sp) :: pushAccesses n (pushed v s) := by
  obtain ⟨hover, hrom⟩ := pushFault_eq_none_iff.mp h
  rw [pushAccesses, pushAccesses_congr (u := pushed v s) (s := s.setSp (s.sp - 1)) n rfl rfl]
  simp [hover, hrom]

theorem pushAccesses_of_fault {s : State} {f : Fault} (n : Nat) (h : pushFault s = some f) :
    pushAccesses n s = [] := by
  cases n with
  | zero => rfl
  | succ n =>
    have hne : pushFault s ≠ none := by simp [h]
    rw [Ne, pushFault_eq_none_iff, not_and] at hne
    cases hover : pushOverflows s <;> simp_all [pushAccesses]

theorem pushAccesses_length_le (n : Nat) (s : State) : (pushAccesses n s).length ≤ n := by
  induction n generalizing s with
  | zero => rfl
  | succ n ih =>
    unfold pushAccesses
    split
    · exact Nat.zero_le _
    · exact Nat.succ_le_succ (ih _)

/-- A list of pushes, then the rest. -/
def pushAll : List Byte → State → Rest → Result
  | [], s, rest => rest s
  | v :: vs, s, rest => push v s fun t => pushAll vs t rest

theorem pushWord_eq_pushAll (w : Addr) (s : State) (rest : Rest) :
    pushWord w s rest = pushAll [hiByte w, loByte w] s rest := rfl

/-- A push keeps P, so the third byte BRK pushes is known before the first push. -/
theorem enterTrap_eq_pushAll (ret : Addr) (s : State) :
    enterTrap ret s = pushAll [hiByte ret, loByte ret, pushedP s.p] s fun u =>
      .next ((u.setFlag .i true).setPc (memRead16 u brkVector)) := by
  unfold enterTrap
  rw [pushWord_eq_pushAll]
  simp only [pushAll, push, memWrite, State.setMem_p, State.setSp_p]
  rfl

/-- The state after the pushes that made some accesses: only S and the bytes written differ. -/
structure AfterPushes (made : List Access) (s u : State) : Prop where
  frame : u = { s with sp := u.sp, mem := u.mem }
  sp : u.sp = s.sp - BitVec.ofNat 8 made.length
  unwritten : ∀ addr, .write addr ∉ made → u.mem.read addr = s.mem.read addr

theorem AfterPushes.nil (s : State) : AfterPushes [] s s :=
  ⟨rfl, by simp, fun _ _ => rfl⟩

theorem AfterPushes.cons {made : List Access} {s u : State} (v : Byte)
    (h : AfterPushes made (pushed v s) u) : AfterPushes (.write (stackAddr s.sp) :: made) s u := by
  obtain ⟨hframe, hsp, hunwritten⟩ := h
  refine ⟨hframe, ?sp, ?unwritten⟩
  case sp =>
    rw [hsp, List.length_cons, BitVec.ofNat_add]
    show s.sp - 1#8 - _ = _
    bv_omega
  case unwritten =>
    intro addr haddr
    obtain ⟨hne, hmade⟩ : addr ≠ stackAddr s.sp ∧ .write addr ∉ made := by simpa using haddr
    rw [hunwritten addr hmade]
    exact Memory.read_write_other _ _ _ _ (by rwa [stackByte_eq_stackAddr])

/-- Everything a list of pushes can do: all are made and the rest runs, or the first that faults ends the
instruction and the ones before it remain (60_exceptions.md R913). -/
theorem pushAll_cases {vs : List Byte} {s t : State} {rest : Rest} (h : pushAll vs s rest = .next t) :
    ∃ u, AfterPushes (pushAccesses vs.length s) s u ∧
      ((pushAccesses vs.length s).length = vs.length ∧ rest u = .next t ∨
        (pushAccesses vs.length s).length < vs.length ∧ ∃ f, pushFault u = some f ∧ t = raise f u) := by
  induction vs generalizing s with
  | nil => exact ⟨s, .nil s, .inl ⟨rfl, h⟩⟩
  | cons v vs ih =>
    cases hfault : pushFault s with
    | none =>
      rw [pushAll, push_of_no_fault _ _ hfault] at h
      obtain ⟨u, hu, hdone⟩ := ih h
      rw [List.length_cons, pushAccesses_of_no_fault _ v hfault]
      refine ⟨u, hu.cons, ?_⟩
      simpa only [List.length_cons, Nat.add_right_cancel_iff, Nat.add_lt_add_iff_right] using hdone
    | some f =>
      rw [pushAll, push_of_fault _ _ hfault] at h
      rw [pushAccesses_of_fault _ hfault]
      exact ⟨s, .nil s, .inr ⟨by simp, f, hfault, by cases h; rfl⟩⟩

theorem pullAccesses_congr {s u : State} (n : Nat) (hsp : u.sp = s.sp) (hcfg : u.cfg = s.cfg) :
    pullAccesses n u = pullAccesses n s := by
  induction n generalizing s u with
  | zero => rfl
  | succ n ih =>
    have hnext : pullAccesses n (u.setSp (s.sp + 1)) = pullAccesses n (s.setSp (s.sp + 1)) :=
      ih rfl hcfg
    have hunder : pullUnderflows u = pullUnderflows s := by simp [pullUnderflows, hsp, hcfg]
    rw [pullAccesses, pullAccesses, hsp, hunder, hnext]

theorem pullAccesses_of_ok {s : State} (n : Nat) (h : pullUnderflows s = false) :
    pullAccesses (n + 1) s = .read (stackAddr (s.sp + 1)) :: pullAccesses n (s.setSp (s.sp + 1)) := by
  simp [pullAccesses, h]

theorem pullAccesses_of_underflow {s : State} (n : Nat) (h : pullUnderflows s = true) :
    pullAccesses n s = [] := by
  cases n <;> simp [pullAccesses, h]

/-- The state after the pulls that made some accesses: only S has moved. -/
def afterPulls (made : List Access) (s : State) : State := s.setSp (s.sp + BitVec.ofNat 8 made.length)

theorem afterPulls_nil (s : State) : afterPulls [] s = s := by
  simp [afterPulls, State.setSp]

theorem afterPulls_cons (access : Access) (made : List Access) (s : State) :
    afterPulls (access :: made) s = afterPulls made (s.setSp (s.sp + 1)) := by
  have hsp : s.sp + BitVec.ofNat 8 (made.length + 1) = s.sp + 1 + BitVec.ofNat 8 made.length := by
    rw [BitVec.ofNat_add]
    bv_omega
  simp only [afterPulls, List.length_cons, hsp]
  rfl

/-- Everything the pull of a word can do: both bytes are pulled and the rest runs, or the first pull that
faults ends the instruction. -/
theorem pullWord_cases {s t : State} {rest : Addr → Rest} (h : pullWord s rest = .next t) :
    ((pullAccesses 2 s).length = 2 ∧ ∃ w, rest w (afterPulls (pullAccesses 2 s) s) = .next t) ∨
      (pullAccesses 2 s).length < 2 ∧ pullUnderflows (afterPulls (pullAccesses 2 s) s) = true ∧
        t = raise .stackUnderflow (afterPulls (pullAccesses 2 s) s) := by
  rcases pull_cases h with ⟨hunder, rfl⟩ | ⟨hok, h⟩
  · rw [pullAccesses_of_underflow _ hunder, afterPulls_nil]
    exact .inr ⟨by simp, hunder, rfl⟩
  · rw [pullAccesses_of_ok _ hok, afterPulls_cons]
    rcases pull_cases h with ⟨hunder, rfl⟩ | ⟨hok', h⟩
    · rw [pullAccesses_of_underflow _ hunder, afterPulls_nil]
      exact .inr ⟨by simp, hunder, rfl⟩
    · rw [pullAccesses_of_ok _ hok', afterPulls_cons]
      exact .inl ⟨rfl, _, by simpa [pullAccesses, afterPulls_nil] using h⟩

end Sys2Proof.Machine
end

section
/-! The access lists by the family of the operation (Machine/Accesses.lean). -/

namespace Sys2Proof.Machine

/-- The operations that read their operand and write no memory. -/
def loadOps : List Op := [.lda, .ldx, .ldy, .adc, .sbc, .and, .ora, .eor, .bit, .cmp, .cpx, .cpy]

/-- The operations that write their memory operand and do not read it. -/
def storeOps : List Op := [.sta, .stx, .sty]

/-- The operations that read their operand and write it back. -/
def modifyOps : List Op := [.asl, .lsr, .rol, .ror, .inc, .dec]

/-- The operations that push. -/
def pushOps : List Op := [.pha, .php, .jsr, .brk]

/-- The operations that pull. -/
def pullOps : List Op := [.pla, .plp, .rts, .rti]

/-- How many bytes an operation pushes or pulls when nothing faults. -/
def stackBytes : Op → Nat
  | .pha | .php | .pla | .plp => 1
  | .jsr | .rts => 2
  | .brk | .rti => 3
  | _ => 0

variable {i : Instr} {s : State}

theorem accesses_load (h : i.op ∈ loadOps) :
    accesses i s = operandAccesses (fun ea => [.read ea]) i s := by
  unfold accesses
  split
  · simp [Instr.op, loadOps] at h
  · generalize i.op = op at h
    cases op <;> simp [loadOps] at h ⊢

theorem accesses_store (h : i.op ∈ storeOps) :
    accesses i s = operandAccesses (fun ea => writeAccess ea s) i s := by
  unfold accesses
  split
  · simp [Instr.op, storeOps] at h
  · generalize i.op = op at h
    cases op <;> simp [storeOps] at h ⊢

theorem accesses_modify (h : i.op ∈ modifyOps) :
    accesses i s = operandAccesses (fun ea => .read ea :: writeAccess ea s) i s := by
  unfold accesses
  split
  · simp [Instr.op, modifyOps] at h
  · generalize i.op = op at h
    cases op <;> simp [modifyOps] at h ⊢

theorem accesses_pull (h : i.op ∈ pullOps) : accesses i s = pullAccesses (stackBytes i.op) s := by
  unfold accesses
  split
  · simp [Instr.op, pullOps] at h
  · generalize i.op = op at h
    cases op <;> simp [pullOps, stackBytes] at h ⊢

/-- The reads of the BRK vector, low byte first. -/
def vectorReads : List Access := [.read brkVector, .read (brkVector + 1)]

theorem accesses_push_full (h : i.op ∈ pushOps)
    (hfull : (pushAccesses (stackBytes i.op) s).length = stackBytes i.op) :
    accesses i s = pushAccesses (stackBytes i.op) s ++ if i.op = .brk then vectorReads else [] := by
  unfold accesses
  split
  · simp [Instr.op, pushOps] at h
  · generalize i.op = op at h hfull
    cases op <;> simp_all [pushOps, stackBytes, vectorReads]

theorem accesses_push_short (h : i.op ∈ pushOps)
    (hshort : (pushAccesses (stackBytes i.op) s).length < stackBytes i.op) :
    accesses i s = pushAccesses (stackBytes i.op) s := by
  unfold accesses
  split
  · simp [Instr.op, pushOps] at h
  · generalize i.op = op at h hshort
    cases op <;> simp_all [pushOps, stackBytes, Nat.ne_of_lt]

theorem accesses_none (hop : i.op ∉ loadOps ++ storeOps ++ modifyOps ++ pushOps ++ pullOps)
    (hjmp : ∀ w, i ≠ .jmpInd w) : accesses i s = [] := by
  unfold accesses
  split
  · next w => exact absurd rfl (hjmp w)
  · generalize i.op = op at hop
    cases op <;> simp [loadOps, storeOps, modifyOps, pushOps, pullOps] at hop ⊢

theorem operandAccesses_none {rest : Addr → List Access} (h : memOperandOf i = none) :
    operandAccesses rest i s = [] := by
  simp [operandAccesses, h]

theorem operandAccesses_some {rest : Addr → List Access} {m : MemOperand} (h : memOperandOf i = some m) :
    operandAccesses rest i s = pointerReads m s ++ rest (effAddr m s) := by
  simp [operandAccesses, h]

theorem writeAccess_of_ok {addr : Addr} (h : inRom s addr = false) : writeAccess addr s = [.write addr] := by
  simp [writeAccess, h]

/-- What a store, shift or modify that is not into ROM is listed as writing. -/
theorem write_mem_accesses {m : MemOperand} (hop : i.op ∈ storeOps ++ modifyOps)
    (hm : memOperandOf i = some m) (hrom : inRom s (effAddr m s) = false) :
    .write (effAddr m s) ∈ accesses i s := by
  rcases List.mem_append.mp hop with hop | hop
  · rw [accesses_store hop, operandAccesses_some hm, writeAccess_of_ok hrom]
    simp
  · rw [accesses_modify hop, operandAccesses_some hm, writeAccess_of_ok hrom]
    simp

end Sys2Proof.Machine
end

section
/-! What an instruction can do to memory, to S and to the fault record, said once by the family of its
operation: everything that the statements about faults and accesses need of a meaning. -/

namespace Sys2Proof.Machine

/-- `raise` of a pull's underflow, at the state whose earlier pulls `made` some accesses. RTI has loaded P
once its first pull is made (60_exceptions.md R932). -/
structure UnderflowsAfter (isRti : Bool) (made : List Access) (s t : State) : Prop where
  frame : t = raise .stackUnderflow { s with sp := t.sp, p := t.p }
  sp : t.sp = s.sp + BitVec.ofNat 8 made.length
  boundary : s.cfg.stackWrap = false ∧ t.sp = 0xFF#8
  p : t.p = if isRti ∧ made ≠ [] then memRead s (stackAddr (s.sp + 1)) else s.p

/-- The outcomes of an instruction by what it does beyond registers and flags. -/
inductive Effect (i : Instr) (s t : State) : Prop where
  /-- An instruction that cannot fault: every one that has no memory operand to write and no stack access. -/
  | quiet (hstack : i.op ∉ pushOps ++ pullOps)
      (hoperand : i.op ∈ storeOps ++ modifyOps → memOperandOf i = none)
      (hmem : t.mem = s.mem) (hfault : t.fault = s.fault)
  /-- A store or modify below `ROM_START`. -/
  | wrote (m : MemOperand) (v : Byte) (hop : i.op ∈ storeOps ++ modifyOps) (hm : memOperandOf i = some m)
      (hrom : inRom s (effAddr m s) = false) (hmem : t.mem = s.mem.write (effAddr m s) v)
      (hfault : t.fault = s.fault)
  /-- A store or modify at or above `ROM_START`. -/
  | violated (m : MemOperand) (hop : i.op ∈ storeOps ++ modifyOps) (hm : memOperandOf i = some m)
      (hrom : inRom s (effAddr m s) = true) (hraise : t = raise (.romViolation (effAddr m s)) s)
  /-- All pushes made. -/
  | pushed (u : State) (hop : i.op ∈ pushOps) (hu : AfterPushes (pushAccesses (stackBytes i.op) s) s u)
      (hfull : (pushAccesses (stackBytes i.op) s).length = stackBytes i.op)
      (hmem : t.mem = u.mem) (hfault : t.fault = u.fault)
  /-- A push that faults after the ones made. -/
  | pushFaulted (u : State) (f : Fault) (hop : i.op ∈ pushOps)
      (hu : AfterPushes (pushAccesses (stackBytes i.op) s) s u)
      (hshort : (pushAccesses (stackBytes i.op) s).length < stackBytes i.op)
      (hf : pushFault u = some f) (hraise : t = raise f u)
  /-- All pulls made. -/
  | pulled (hop : i.op ∈ pullOps) (hfull : (pullAccesses (stackBytes i.op) s).length = stackBytes i.op)
      (hmem : t.mem = s.mem) (hfault : t.fault = s.fault)
  /-- A pull that faults after the ones made. -/
  | pullFaulted (hop : i.op ∈ pullOps)
      (hunder : UnderflowsAfter (i.op = .rti) (pullAccesses (stackBytes i.op) s) s t)

/-- Counting a free value changes the count only (log 5). -/
theorem countDraw_eq (m : Byte) (s : State) : countDraw m s = s.setDraws (countDraw m s).draws := by
  unfold countDraw
  split <;> rfl

@[simp] theorem countDraw_mem (m : Byte) (s : State) : (countDraw m s).mem = s.mem := by
  rw [countDraw_eq, State.setDraws_mem]

@[simp] theorem countDraw_fault (m : Byte) (s : State) : (countDraw m s).fault = s.fault := by
  rw [countDraw_eq, State.setDraws_fault]

@[simp] theorem countDraw_p (m : Byte) (s : State) : (countDraw m s).p = s.p := by
  rw [countDraw_eq, State.setDraws_p]

namespace Effect

variable {i : Instr} {s t : State}

/-- The families of operations that touch no memory at all, or only read it. -/
theorem of_op {op : Op} (hop : i.op = op) (hmem : t.mem = s.mem) (hfault : t.fault = s.fault)
    (hfamily : op ∉ storeOps ++ modifyOps ++ pushOps ++ pullOps) : Effect i s t := by
  rw [← hop] at hfamily
  simp only [List.append_assoc, List.mem_append, not_or] at hfamily
  obtain ⟨hstore, hmodify, hpush, hpull⟩ := hfamily
  exact .quiet (by simp [hpush, hpull]) (by simp [hstore, hmodify]) hmem hfault

theorem of_memWrite {m : MemOperand} {v : Byte} {rest : Rest} (hop : i.op ∈ storeOps ++ modifyOps)
    (hm : memOperandOf i = some m)
    (hrest : ∀ u, rest u = .next t → t.mem = u.mem ∧ t.fault = u.fault)
    (h : memWrite (effAddr m s) v s rest = .next t) : Effect i s t := by
  rcases memWrite_cases h with ⟨hrom, rfl⟩ | ⟨hrom, h⟩
  · exact .violated m hop hm hrom rfl
  · obtain ⟨hmem, hfault⟩ := hrest _ h
    exact .wrote m v hop hm hrom hmem hfault

theorem of_shift {f : Byte → Bool → Byte} {out : Byte → Bool} {tgt : Target} (hop : i.op ∈ modifyOps)
    (htgt : ∀ m, memOperandOf i = some m ↔ tgt = .mem m) (h : shift f out tgt s = .next t) :
    Effect i s t := by
  cases tgt with
  | acc =>
    have hnone : memOperandOf i = none := Option.eq_none_iff_forall_ne_some.mpr fun m hm => by
      simpa using (htgt m).mp hm
    have hstack : i.op ∉ pushOps ++ pullOps :=
      (by decide : ∀ op ∈ modifyOps, op ∉ pushOps ++ pullOps) _ hop
    cases h
    exact .quiet hstack (fun _ => hnone) rfl rfl
  | mem m =>
    unfold shift put at h
    refine of_memWrite (List.mem_append_right _ hop) ((htgt m).mpr rfl) ?_ h
    intro u hu
    cases hu
    exact ⟨rfl, rfl⟩

theorem of_modify {f : Byte → Byte} {m : MemOperand} (hop : i.op ∈ modifyOps)
    (hm : memOperandOf i = some m) (h : modify f m s = .next t) : Effect i s t := by
  unfold modify at h
  refine of_memWrite (List.mem_append_right _ hop) hm ?_ h
  intro u hu
  cases hu
  exact ⟨rfl, rfl⟩

theorem of_branch {cond : Bool} {d : Byte} {op : Op} (hop : i.op = op)
    (hfamily : op ∉ storeOps ++ modifyOps ++ pushOps ++ pullOps) (h : branch cond d s = .next t) :
    Effect i s t := by
  cases h
  split <;> exact of_op hop rfl rfl hfamily

theorem of_pushAll {vs : List Byte} {rest : Rest} (hop : i.op ∈ pushOps)
    (hbytes : stackBytes i.op = vs.length)
    (hrest : ∀ u, rest u = .next t → t.mem = u.mem ∧ t.fault = u.fault)
    (h : pushAll vs s rest = .next t) : Effect i s t := by
  obtain ⟨u, hu, ⟨hfull, h⟩ | ⟨hshort, f, hf, hraise⟩⟩ := pushAll_cases h
  · obtain ⟨hmem, hfault⟩ := hrest u h
    rw [← hbytes] at hu hfull
    exact .pushed u hop hu hfull hmem hfault
  · rw [← hbytes] at hu hshort
    exact .pushFaulted u f hop hu hshort hf hraise

theorem of_pull {rest : Byte → Rest} (hop : i.op ∈ pullOps) (hbytes : stackBytes i.op = 1)
    (hrest : ∀ v u, rest v u = .next t → t.mem = u.mem ∧ t.fault = u.fault)
    (h : pull s rest = .next t) : Effect i s t := by
  rcases pull_cases h with ⟨hunder, rfl⟩ | ⟨hok, h⟩
  · refine .pullFaulted hop ?_
    rw [hbytes, pullAccesses_of_underflow _ hunder]
    exact ⟨rfl, by simp, pullUnderflows_iff.mp hunder, by simp⟩
  · obtain ⟨hmem, hfault⟩ := hrest _ _ h
    refine .pulled hop ?_ hmem hfault
    rw [hbytes, pullAccesses_of_ok _ hok]
    rfl

theorem of_execRts (h : execRts s = .next t) : Effect .rts s t := by
  rcases pullWord_cases h with ⟨hfull, w, h⟩ | ⟨_, hunder, rfl⟩
  · cases h
    exact .pulled (by decide) hfull rfl rfl
  · refine .pullFaulted (by decide) ⟨rfl, rfl, pullUnderflows_iff.mp hunder, ?_⟩
    simp [Instr.op, afterPulls]

theorem of_execRti (h : execRti s = .next t) : Effect .rti s t := by
  unfold execRti returnFromTrap at h
  rcases pull_cases h with ⟨hunder, rfl⟩ | ⟨hok, h⟩
  · refine .pullFaulted (by decide) ?_
    show UnderflowsAfter _ (pullAccesses 3 s) s _
    rw [pullAccesses_of_underflow _ hunder]
    exact ⟨rfl, by simp, pullUnderflows_iff.mp hunder, by simp⟩
  · have hmade : pullAccesses 3 s = .read (stackAddr (s.sp + 1)) ::
        pullAccesses 2 ((s.setSp (s.sp + 1)).setP (memRead s (stackAddr (s.sp + 1)))) := by
      rw [pullAccesses_of_ok _ hok, pullAccesses_congr 2 (State.setP_sp ..) (State.setP_cfg ..)]
    rcases pullWord_cases h with ⟨hfull, w, h⟩ | ⟨_, hunder, rfl⟩
    · cases h
      refine .pulled (by decide) ?_ rfl rfl
      show (pullAccesses 3 s).length = 3
      rw [hmade, List.length_cons, hfull]
    · refine .pullFaulted (by decide) ?_
      show UnderflowsAfter _ (pullAccesses 3 s) s _
      rw [hmade]
      refine ⟨rfl, ?sp, pullUnderflows_iff.mp hunder, ?p⟩
      case sp =>
        simp [afterPulls, BitVec.ofNat_add]
        bv_omega
      case p => simp [Instr.op, afterPulls]

theorem byRule : ByRule Effect := by
  constructor
  case lda | ldx | ldy | and | ora | eor | cmp | cpx | cpy | bit =>
    intro i _ s t hop _ h
    cases h
    exact of_op hop rfl rfl (by decide)
  case adc | sbc =>
    intro i src s t hop _ h
    cases h
    exact of_op hop (by simp) (by simp) (by decide)
  case sta | stx | sty =>
    intro i m s t hop hm h
    exact of_memWrite (by simp [hop, storeOps]) hm (fun u hu => by cases hu; exact ⟨rfl, rfl⟩) h
  case inc | dec =>
    intro i m s t hop hm h
    exact of_modify (by simp [hop, modifyOps]) hm h
  case asl | lsr | rol | ror =>
    intro i tgt s t hop htgt _ h
    exact of_shift (by simp [hop, modifyOps]) htgt h
  case bpl | bmi | bvc | bvs | bcc | bcs | bne | beq =>
    intro d s t h
    exact of_branch rfl (by simp [Instr.op, storeOps, modifyOps, pushOps, pullOps]) h
  case jmpAbs | jmpInd =>
    intro w s t h
    cases h
    exact of_op (op := .jmp) rfl rfl rfl (by decide)
  case tax | tay | txa | tya | inx | dex | iny | dey | tsx | txs | clc | sec | cli | sei | cld | sed |
      clv | nop =>
    intro s t h
    cases h
    exact of_op rfl rfl rfl (by decide)
  case pha | php =>
    intro s t h
    exact of_pushAll (vs := [_]) (by decide) rfl (fun u hu => by cases hu; exact ⟨rfl, rfl⟩) h
  case jsr =>
    intro w s t h
    exact of_pushAll (vs := [_, _]) (by simp [Instr.op, pushOps]) rfl (fun u hu => by cases hu; exact ⟨rfl, rfl⟩) h
  case brk =>
    intro s t h
    rw [execBrk, enterTrap_eq_pushAll] at h
    exact of_pushAll (by decide) rfl (fun u hu => by cases hu; exact ⟨rfl, rfl⟩) h
  case pla | plp =>
    intro s t h
    exact of_pull (by decide) rfl (fun v u hu => by cases hu; exact ⟨rfl, rfl⟩) h
  case rts =>
    intro s t h
    exact of_execRts h
  case rti =>
    intro s t h
    exact of_execRti h

end Effect
end Sys2Proof.Machine
end

section
/-! What follows from `Effect` for memory (20_memory.md section 3) and for the stack page (40_sequencer.md
section 4). -/

namespace Sys2Proof.Machine

variable {i : Instr} {s t : State}

theorem exec_effect (h : exec i s = .next t) : Effect i s t := Effect.byRule.exec i h

/-- The reads BRK makes after its pushes are no writes. -/
theorem write_mem_accesses_push_iff {addr : Addr} (hop : i.op ∈ pushOps) :
    .write addr ∈ accesses i s ↔ .write addr ∈ pushAccesses (stackBytes i.op) s := by
  have hle : (pushAccesses (stackBytes i.op) s).length ≤ stackBytes i.op := pushAccesses_length_le _ s
  rcases Nat.lt_or_eq_of_le hle with hshort | hfull
  · rw [accesses_push_short hop hshort]
  · rw [accesses_push_full hop hfull]
    split <;> simp [vectorReads]

theorem Effect.read_eq_of_not_written (h : Effect i s t) {addr : Addr} (haddr : .write addr ∉ accesses i s) :
    t.mem.read addr = s.mem.read addr := by
  cases h with
  | quiet _ _ hmem _ => rw [hmem]
  | wrote m v hop hm hrom hmem _ =>
    rw [hmem]
    refine Memory.read_write_other _ _ _ _ ?_
    rintro rfl
    exact haddr (write_mem_accesses hop hm hrom)
  | violated m _ _ _ hraise => rw [hraise, raise_mem]
  | pushed u hop hu _ hmem _ =>
    rw [hmem]
    exact hu.unwritten addr (by rwa [← write_mem_accesses_push_iff hop])
  | pushFaulted u f hop hu _ _ hraise =>
    rw [hraise, raise_mem]
    exact hu.unwritten addr (by rwa [← write_mem_accesses_push_iff hop])
  | pulled _ _ hmem _ => rw [hmem]
  | pullFaulted _ hunder => rw [hunder.frame, raise_mem]

/-- A push writes the byte of a value of S, and with wrap off not the lowest. -/
theorem exists_of_mem_pushAccesses {n : Nat} {access : Access} (h : access ∈ pushAccesses n s) :
    ∃ sp, access = .write (stackAddr sp) ∧ (s.cfg.stackWrap = false → sp ≠ 0x00#8) := by
  induction n generalizing s with
  | zero => simp [pushAccesses] at h
  | succ n ih =>
    unfold pushAccesses at h
    split at h
    · simp at h
    · next hok =>
      rcases List.mem_cons.mp h with rfl | h
      · refine ⟨s.sp, rfl, fun hwrap hsp => hok ?_⟩
        simp [pushOverflows, hwrap, hsp]
      · exact ih (s := s.setSp (s.sp - 1)) h

end Sys2Proof.Machine

namespace Sys2Proof.Claims

open Sys2Proof.Machine

/-- Settles O19. -/
theorem memoryChangesOnlyAtListedWrites : Obligations.MemoryChangesOnlyAtListedWrites :=
  fun _ _ _ _ h haddr => (exec_effect h).read_eq_of_not_written haddr

/-- Settles O22: a byte that changed is among the writes of the pushes. -/
theorem pushesStayInTheStackPage : Obligations.PushesStayInTheStackPage := by
  intro i s t addr hop h hchanged
  have hwritten : .write addr ∈ pushAccesses (stackBytes i.op) s := by
    rw [← write_mem_accesses_push_iff hop]
    by_contra hnot
    exact hchanged ((exec_effect h).read_eq_of_not_written hnot)
  obtain ⟨sp, heq, hlow⟩ := exists_of_mem_pushAccesses hwritten
  cases heq
  rw [stackAddr_toNat]
  refine ⟨by omega, by omega, fun hwrap => ?_⟩
  have hne : sp.toNat ≠ 0 := fun h0 => hlow hwrap (BitVec.eq_of_toNat_eq h0)
  omega

end Sys2Proof.Claims
end

section
/-! The causes of a fault (60_exceptions.md R900) and the state it leaves (R913, 92_eei_decisions.md D3). -/

namespace Sys2Proof.Machine

/-- Three bytes are enough for every format, so nothing is fetched only where the opcode is illegal. -/
theorem decodeOpcode_of_fetch_none {s : State} (h : fetch s = none) :
    decodeOpcode (s.mem.read s.pc) = none := by
  cases hsh : shapeOf (s.mem.read s.pc) with
  | none => simp [decodeOpcode, hsh]
  | some sh => cases sh <;> simp [fetch, fetchBytes, memRead, decode, hsh] at h

theorem pushFault_cases {s : State} {f : Fault} (h : pushFault s = some f) :
    (f = .stackOverflow ∧ pushOverflows s = true) ∨
      (f = .romViolation (stackAddr s.sp) ∧ inRom s (stackAddr s.sp) = true) := by
  unfold pushFault at h
  cases hover : pushOverflows s <;> cases hrom : inRom s (stackAddr s.sp) <;> simp_all

/-- The outcomes of `Effect` that record a fault. -/
inductive Faults (i : Instr) (s : State) (f : Fault) (t : State) : Prop where
  | violated (m : MemOperand) (hop : i.op ∈ storeOps ++ modifyOps) (hf : f = .romViolation (effAddr m s))
      (hrom : inRom s (effAddr m s) = true) (hraise : t = raise f s)
  | pushFaulted (u : State) (hop : i.op ∈ pushOps) (hu : AfterPushes (accesses i s) s u)
      (hf : pushFault u = some f) (hraise : t = raise f u)
  | pullFaulted (hop : i.op ∈ pullOps) (hf : f = .stackUnderflow)
      (hunder : UnderflowsAfter (i.op = .rti) (accesses i s) s t)

variable {i : Instr} {s t : State} {f : Fault}

theorem Effect.faults (h : Effect i s t) (hrun : s.fault = none) (hf : t.fault = some f) :
    Faults i s f t := by
  cases h with
  | quiet _ _ _ hfault => simp [hfault, hrun] at hf
  | wrote _ _ _ _ _ _ hfault => simp [hfault, hrun] at hf
  | pulled _ _ _ hfault => simp [hfault, hrun] at hf
  | pushed u _ hu _ _ hfault =>
    rw [hfault, hu.frame] at hf
    simp [hrun] at hf
  | violated m hop _ hrom hraise =>
    cases hraise
    cases hf
    exact .violated m hop rfl hrom rfl
  | pushFaulted u f' hop hu hshort hf' hraise =>
    cases hraise
    cases hf
    exact .pushFaulted u hop (by rwa [accesses_push_short hop hshort]) hf' rfl
  | pullFaulted hop hunder =>
    rw [hunder.frame] at hf
    cases hf
    exact .pullFaulted hop rfl (by rwa [accesses_pull hop])

theorem Faults.frame (h : Faults i s f t) :
    t = { s with sp := t.sp, p := t.p, mem := t.mem, fault := some f } := by
  cases h with
  | violated _ _ _ _ hraise =>
    rw [hraise]
    rfl
  | pushFaulted u _ hu _ hraise =>
    rw [hraise, hu.frame]
    rfl
  | pullFaulted _ hf hunder =>
    rw [hunder.frame, hf]
    rfl

theorem Faults.of_push (h : Faults i s f t) (hop : i.op ∈ pushOps) :
    ∃ u, AfterPushes (accesses i s) s u ∧ t = raise f u := by
  cases h with
  | violated _ hop' =>
    exact absurd hop ((by decide : ∀ op ∈ storeOps ++ modifyOps, op ∉ pushOps) _ hop')
  | pushFaulted u _ hu _ hraise => exact ⟨u, hu, hraise⟩
  | pullFaulted hop' => exact absurd hop ((by decide : ∀ op ∈ pullOps, op ∉ pushOps) _ hop')

theorem Faults.of_pull (h : Faults i s f t) (hop : i.op ∈ pullOps) :
    UnderflowsAfter (i.op = .rti) (accesses i s) s t := by
  cases h with
  | violated _ hop' =>
    exact absurd hop ((by decide : ∀ op ∈ storeOps ++ modifyOps, op ∉ pullOps) _ hop')
  | pushFaulted _ hop' => exact absurd hop ((by decide : ∀ op ∈ pushOps, op ∉ pullOps) _ hop')
  | pullFaulted _ _ hunder => exact hunder

theorem Faults.of_neither (h : Faults i s f t) (hop : i.op ∉ pushOps ++ pullOps) : t = raise f s := by
  cases h with
  | violated _ _ _ _ hraise => exact hraise
  | pushFaulted _ hop' => exact absurd (List.mem_append_left _ hop') hop
  | pullFaulted hop' => exact absurd (List.mem_append_right _ hop') hop

theorem Faults.p_of_ne_rti (h : Faults i s f t) (hrti : i.op ≠ .rti) : t.p = s.p := by
  cases h with
  | violated _ _ _ _ hraise => rw [hraise, raise_p]
  | pushFaulted u _ hu _ hraise => rw [hraise, hu.frame, raise_p]
  | pullFaulted _ _ hunder => simpa [hrti] using hunder.p

end Sys2Proof.Machine

namespace Sys2Proof.Claims

open Sys2Proof.Machine

theorem inRom_iff_not_writable {s : State} {addr : Addr} : inRom s addr = true ↔ ¬Writable s addr := by
  rw [inRom_iff, Writable, Nat.not_lt]

/-- Settles O10: the three ways an instruction faults carry the cause of it, and the byte at an address in
ROM is unchanged by O16. -/
theorem recordedFaultsHaveTheirCause : Obligations.RecordedFaultsHaveTheirCause := by
  intro s t h f hf
  obtain ⟨hrun, ⟨hnone, rfl⟩ | ⟨i, hfetch, hexec⟩⟩ := step_cases h
  · cases hf
    exact ⟨rfl, rfl, (decoderIsTotalOverOpcodes.1 _).mp (decodeOpcode_of_fetch_none hnone)⟩
  · cases (exec_effect hexec).faults hrun hf with
    | violated m hop hf hrom hraise =>
      subst hf hraise
      have hops : ∀ op ∈ storeOps ++ modifyOps, op ∈ storeOps ++ modifyOps ++ pushOps := by decide
      exact ⟨inRom_iff_not_writable.mp hrom, rfl, i, hfetch, hops _ hop⟩
    | pushFaulted u hop hu hcause hraise =>
      have hcfg : u.cfg = s.cfg := by rw [hu.frame, advance_cfg]
      subst hraise
      rcases pushFault_cases hcause with ⟨rfl, hover⟩ | ⟨rfl, hrom⟩
      · obtain ⟨hwrap, hsp⟩ := pushOverflows_iff.mp hover
        exact ⟨hcfg ▸ hwrap, hsp, i, hfetch, hop⟩
      · have hrom' : inRom s (stackAddr u.sp) = true := by simpa [inRom, hcfg] using hrom
        have hops : ∀ op ∈ pushOps, op ∈ storeOps ++ modifyOps ++ pushOps := by decide
        exact ⟨inRom_iff_not_writable.mp hrom',
          romIsReadOnlyToTheCore _ _ _ h ((inRom_iff _).mp hrom'), i, hfetch, hops _ hop⟩
    | pullFaulted hop hf hunder =>
      subst hf
      obtain ⟨hwrap, hsp⟩ := hunder.boundary
      exact ⟨hwrap, hsp, i, hfetch, hop⟩

/-- Settles O12: S, P and memory by the way the instruction faults, and the rest by `Faults.frame`. -/
theorem executeTimeFaultLeavesPcNext : Obligations.ExecuteTimeFaultLeavesPcNext := by
  intro s t i h hfetch hfault made
  obtain ⟨f, hf⟩ := Option.ne_none_iff_exists'.mp hfault
  obtain ⟨hrun, ⟨hnone, _⟩ | ⟨i', hfetch', hexec⟩⟩ := step_cases h
  · simp [hnone] at hfetch
  cases hfetch.symm.trans hfetch'
  have heffect := exec_effect hexec
  have hfaults := heffect.faults hrun hf
  have hframe := hfaults.frame
  refine ⟨by rw [hframe]; rfl, by rw [hframe]; rfl, by rw [hframe]; rfl, by rw [hframe]; rfl,
    by rw [hframe]; rfl, by rw [hframe]; rfl, hfaults.p_of_ne_rti, ?rti, ?pushes, ?pulls, ?others,
    fun _ => heffect.read_eq_of_not_written⟩
  case rti =>
    intro hrti
    have hunder := hfaults.of_pull (hrti ▸ by decide)
    rw [hunder.p, stackByte_eq_stackAddr]
    by_cases hmade : made = [] <;> simp [made, hmade, hrti, memRead]
  case pushes =>
    intro hop
    obtain ⟨u, hu, rfl⟩ := hfaults.of_push hop
    exact hu.sp
  case pulls =>
    intro hop
    exact (hfaults.of_pull hop).sp
  case others =>
    intro hop
    rw [hfaults.of_neither hop]
    exact ⟨rfl, rfl⟩

end Sys2Proof.Claims
end

section
/-! The writers of registers and flags (10_state.md sections 2, 3 and 5; 40_sequencer.md section 2): what an
instruction may change besides memory, composed from the elementary updates of its rule, each allowed by
the table of its writers. -/

namespace Sys2Proof.Machine

open Sys2Proof.Claims (flagWriters)

/-- The operations listed as writing A in every form. -/
def aWriters : List Op := [.lda, .pla, .txa, .tya, .adc, .sbc, .and, .ora, .eor]

/-- The forms listed as writing A of the operations that also have forms in memory. -/
def accumulatorForms : List Instr := [.aslAcc, .lsrAcc, .rolAcc, .rorAcc]

/-- The instructions listed as writing A. -/
def WritesA (i : Instr) : Prop := i.op ∈ aWriters ∨ i ∈ accumulatorForms

/-- The operations listed as writing X. -/
def xWriters : List Op := [.ldx, .tax, .tsx, .inx, .dex]

/-- The operations listed as writing Y. -/
def yWriters : List Op := [.ldy, .tay, .iny, .dey]

/-- The operations listed as writing S. -/
def spWriters : List Op := [.txs, .pha, .php, .pla, .plp, .jsr, .rts, .rti, .brk]

/-- The operations listed as writing PC. -/
def pcWriters : List Op :=
  [.bpl, .bmi, .bvc, .bvs, .bcc, .bcs, .bne, .beq, .jmp, .jsr, .rts, .rti, .brk]

/-- The operations that may draw a free value. -/
def arithmeticOps : List Op := [.adc, .sbc]

/-- An instruction draws a free value when run from this state (43_arithmetic.md R554). -/
def DrawsFrom (i : Instr) (s : State) : Prop :=
  i.op ∈ arithmeticOps ∧ s.flag .d = true ∧ s.cfg.invalidBcd = .anyValue

/-- Between two states within an instruction's execution from `s₀`, only what it is listed as writing
changes. -/
structure ChangesListed (i : Instr) (s₀ s t : State) : Prop where
  flags : ∀ f, t.flag f = s.flag f ∨ i.op ∈ flagWriters f
  a : t.a = s.a ∨ WritesA i
  x : t.x = s.x ∨ i.op ∈ xWriters
  y : t.y = s.y ∨ i.op ∈ yWriters
  sp : t.sp = s.sp ∨ i.op ∈ spWriters
  pc : t.pc = s.pc ∨ i.op ∈ pcWriters
  draws : t.draws = s.draws ∨ DrawsFrom i s₀

theorem eq_or_trans {α : Type} {a b c : α} {listed : Prop} (hab : b = a ∨ listed) (hbc : c = b ∨ listed) :
    c = a ∨ listed := by
  rcases hab with rfl | h
  · exact hbc
  · exact .inr h

namespace ChangesListed

variable {i : Instr} {s₀ s t u : State}

/-- An update of memory, of the fault record, or of nothing. -/
theorem of_registers_eq (hp : t.p = s.p) (ha : t.a = s.a) (hx : t.x = s.x) (hy : t.y = s.y)
    (hsp : t.sp = s.sp) (hpc : t.pc = s.pc) (hdraws : t.draws = s.draws) : ChangesListed i s₀ s t :=
  ⟨fun f => .inl (by rw [State.flag, hp, State.flag]), .inl ha, .inl hx, .inl hy, .inl hsp, .inl hpc,
    .inl hdraws⟩

theorem refl (s : State) : ChangesListed i s₀ s s := of_registers_eq rfl rfl rfl rfl rfl rfl rfl

theorem raise (f : Fault) (s : State) : ChangesListed i s₀ s (raise f s) :=
  of_registers_eq rfl rfl rfl rfl rfl rfl rfl

theorem trans (hst : ChangesListed i s₀ s t) (htu : ChangesListed i s₀ t u) : ChangesListed i s₀ s u :=
  ⟨fun f => eq_or_trans (hst.flags f) (htu.flags f), eq_or_trans hst.a htu.a, eq_or_trans hst.x htu.x,
    eq_or_trans hst.y htu.y, eq_or_trans hst.sp htu.sp, eq_or_trans hst.pc htu.pc,
    eq_or_trans hst.draws htu.draws⟩

theorem setA (v : Byte) (s : State) (h : WritesA i) : ChangesListed i s₀ s (s.setA v) :=
  ⟨fun _ => .inl rfl, .inr h, .inl rfl, .inl rfl, .inl rfl, .inl rfl, .inl rfl⟩

theorem setX (v : Byte) (s : State) (h : i.op ∈ xWriters) : ChangesListed i s₀ s (s.setX v) :=
  ⟨fun _ => .inl rfl, .inl rfl, .inr h, .inl rfl, .inl rfl, .inl rfl, .inl rfl⟩

theorem setY (v : Byte) (s : State) (h : i.op ∈ yWriters) : ChangesListed i s₀ s (s.setY v) :=
  ⟨fun _ => .inl rfl, .inl rfl, .inl rfl, .inr h, .inl rfl, .inl rfl, .inl rfl⟩

theorem setSp (v : Byte) (s : State) (h : i.op ∈ spWriters) : ChangesListed i s₀ s (s.setSp v) :=
  ⟨fun _ => .inl rfl, .inl rfl, .inl rfl, .inl rfl, .inr h, .inl rfl, .inl rfl⟩

theorem setPc (v : Addr) (s : State) (h : i.op ∈ pcWriters) : ChangesListed i s₀ s (s.setPc v) :=
  ⟨fun _ => .inl rfl, .inl rfl, .inl rfl, .inl rfl, .inl rfl, .inr h, .inl rfl⟩

theorem setP (v : Byte) (s : State) (h : ∀ f, i.op ∈ flagWriters f) : ChangesListed i s₀ s (s.setP v) :=
  ⟨fun f => .inr (h f), .inl rfl, .inl rfl, .inl rfl, .inl rfl, .inl rfl, .inl rfl⟩

theorem setFlag {f : Flag} (b : Bool) (s : State) (h : i.op ∈ flagWriters f) :
    ChangesListed i s₀ s (s.setFlag f b) := by
  refine ⟨fun g => ?_, .inl rfl, .inl rfl, .inl rfl, .inl rfl, .inl rfl, .inl rfl⟩
  by_cases hg : g = f
  · exact .inr (hg ▸ h)
  · exact .inl (by rw [State.flag_setFlag, if_neg hg])

theorem setNZ (v : Byte) (s : State) (hn : i.op ∈ flagWriters .n) (hz : i.op ∈ flagWriters .z) :
    ChangesListed i s₀ s (setNZ v s) :=
  (setFlag _ _ hn).trans (setFlag _ _ hz)

theorem compare (r m : Byte) (s : State) (hc : i.op ∈ flagWriters .c) (hn : i.op ∈ flagWriters .n)
    (hz : i.op ∈ flagWriters .z) : ChangesListed i s₀ s (compare r m s) :=
  ((setFlag _ _ hc).trans (setFlag _ _ hz)).trans (setFlag _ _ hn)

/-- A free value is drawn in decimal mode under `AnyValue` only. -/
theorem countDraw (m : Byte) (s : State) (hop : i.op ∈ arithmeticOps) :
    ChangesListed i s s (countDraw m s) := by
  unfold Machine.countDraw
  split
  · next hfree =>
    have hdraws : DrawsFrom i s := by
      simp only [decimalIsFree, Bool.and_eq_true, beq_iff_eq] at hfree
      exact ⟨hop, hfree.1⟩
    exact ⟨fun _ => .inl rfl, .inl rfl, .inl rfl, .inl rfl, .inl rfl, .inl rfl, .inr hdraws⟩
  · exact refl s

/-- ADC and SBC from their operand on. -/
theorem arithmetic (m value : Byte) (c z n v : Bool) (s : State) (hop : i.op ∈ arithmeticOps) :
    ChangesListed i s s (((Machine.countDraw m s).setA value).setP (arithmeticP c z n v s.p)) := by
  have hflags : ∀ op ∈ arithmeticOps, op ∈ flagWriters .c ∧ op ∈ flagWriters .z ∧
      op ∈ flagWriters .n ∧ op ∈ flagWriters .v := by decide
  have ha : ∀ op ∈ arithmeticOps, op ∈ aWriters := by decide
  obtain ⟨hc, hz, hn, hv⟩ := hflags _ hop
  have hp : s.p = ((Machine.countDraw m s).setA value).p := by simp
  rw [hp]
  exact (countDraw m s hop).trans <| (setA _ _ (.inl (ha _ hop))).trans <| (setFlag c _ hc).trans <|
    (setFlag z _ hz).trans <| (setFlag n _ hn).trans (setFlag v _ hv)

theorem memWrite {addr : Addr} {v : Byte} {rest : Rest}
    (hrest : ∀ u, rest u = .next t → ChangesListed i s₀ u t) (h : memWrite addr v s rest = .next t) :
    ChangesListed i s₀ s t := by
  rcases memWrite_cases h with ⟨_, rfl⟩ | ⟨_, h⟩
  · exact raise _ s
  · have hwrite : ChangesListed i s₀ s (s.setMem (s.mem.write addr v)) :=
      of_registers_eq rfl rfl rfl rfl rfl rfl rfl
    exact hwrite.trans (hrest _ h)

theorem store {addr : Addr} {v : Byte} (h : Machine.memWrite addr v s .next = .next t) :
    ChangesListed i s₀ s t :=
  memWrite (fun u hu => by cases hu; exact refl _) h

theorem modify {f : Byte → Byte} {m : MemOperand} (hn : i.op ∈ flagWriters .n) (hz : i.op ∈ flagWriters .z)
    (h : modify f m s = .next t) : ChangesListed i s₀ s t := by
  unfold Machine.modify at h
  exact memWrite (fun u hu => by cases hu; exact setNZ _ u hn hz) h

theorem shift {f : Byte → Bool → Byte} {out : Byte → Bool} {tgt : Target} (hacc : tgt = .acc → WritesA i)
    (hop : i.op ∈ modifyOps) (hc : i.op ∈ flagWriters .c) (h : shift f out tgt s = .next t) :
    ChangesListed i s₀ s t := by
  have hflags : ∀ op ∈ modifyOps, op ∈ flagWriters .n ∧ op ∈ flagWriters .z := by decide
  obtain ⟨hn, hz⟩ := hflags _ hop
  have hrest : ∀ (r c : _) (u : State), ChangesListed i s₀ u (Machine.setNZ r (u.setFlag .c c)) :=
    fun r c u => (setFlag c u hc).trans (setNZ r _ hn hz)
  unfold Machine.shift at h
  cases tgt with
  | acc =>
    cases h
    exact (setA _ s (hacc rfl)).trans (hrest _ _ _)
  | mem m =>
    unfold Machine.put at h
    exact memWrite (fun u hu => by cases hu; exact hrest _ _ u) h

theorem branch {cond : Bool} {d : Byte} (hop : i.op ∈ pcWriters) (h : branch cond d s = .next t) :
    ChangesListed i s₀ s t := by
  cases h
  split
  · exact setPc _ s hop
  · exact refl s

theorem push {v : Byte} {rest : Rest} (hop : i.op ∈ spWriters)
    (hrest : ∀ u, rest u = .next t → ChangesListed i s₀ u t) (h : push v s rest = .next t) :
    ChangesListed i s₀ s t := by
  rcases push_cases h with ⟨_, rfl⟩ | ⟨_, _, rfl⟩ | ⟨_, _, h⟩
  · exact raise _ s
  · exact raise _ s
  · have hwrite : ChangesListed i s₀ s (s.setMem (s.mem.write (stackAddr s.sp) v)) :=
      of_registers_eq rfl rfl rfl rfl rfl rfl rfl
    exact hwrite.trans <| (setSp _ _ hop).trans (hrest _ h)

theorem pull {rest : Byte → Rest} (hop : i.op ∈ spWriters)
    (hrest : ∀ v u, rest v u = .next t → ChangesListed i s₀ u t) (h : pull s rest = .next t) :
    ChangesListed i s₀ s t := by
  rcases pull_cases h with ⟨_, rfl⟩ | ⟨_, h⟩
  · exact raise _ s
  · exact (setSp _ s hop).trans (hrest _ _ h)

theorem pushWord {w : Addr} {rest : Rest} (hop : i.op ∈ spWriters)
    (hrest : ∀ u, rest u = .next t → ChangesListed i s₀ u t) (h : pushWord w s rest = .next t) :
    ChangesListed i s₀ s t :=
  push hop (fun _ hu => push hop hrest hu) h

theorem pullWord {rest : Addr → Rest} (hop : i.op ∈ spWriters)
    (hrest : ∀ w u, rest w u = .next t → ChangesListed i s₀ u t) (h : pullWord s rest = .next t) :
    ChangesListed i s₀ s t :=
  pull hop (fun _ _ hu => pull hop (fun _ _ hv => hrest _ _ hv) hu) h

theorem byRule : ByRule fun i s t => ChangesListed i s s t := by
  constructor
  case lda | and | ora | eor =>
    intro i src s t hop _ h
    cases h
    exact (setA _ s (.inl (hop ▸ by decide))).trans (setNZ _ _ (hop ▸ by decide) (hop ▸ by decide))
  case ldx =>
    intro i src s t hop _ h
    cases h
    exact (setX _ s (hop ▸ by decide)).trans (setNZ _ _ (hop ▸ by decide) (hop ▸ by decide))
  case ldy =>
    intro i src s t hop _ h
    cases h
    exact (setY _ s (hop ▸ by decide)).trans (setNZ _ _ (hop ▸ by decide) (hop ▸ by decide))
  case adc | sbc =>
    intro i src s t hop _ h
    cases h
    exact arithmetic _ _ _ _ _ _ s (hop ▸ by decide)
  case cmp | cpx | cpy =>
    intro i src s t hop _ h
    cases h
    exact compare _ _ s (hop ▸ by decide) (hop ▸ by decide) (hop ▸ by decide)
  case sta | stx | sty =>
    intro i m s t hop _ h
    exact store h
  case bit =>
    intro i m s t hop _ h
    cases h
    exact ((setFlag _ s (hop ▸ by decide)).trans (setFlag _ _ (hop ▸ by decide))).trans
      (setFlag _ _ (hop ▸ by decide))
  case inc | dec =>
    intro i m s t hop _ h
    exact modify (hop ▸ by decide) (hop ▸ by decide) h
  case asl | lsr | rol | ror =>
    intro i tgt s t hop _ hacc h
    exact shift (fun htgt => .inr (hacc htgt ▸ by decide)) (hop ▸ by decide) (hop ▸ by decide) h
  case bpl | bmi | bvc | bvs | bcc | bcs | bne | beq =>
    intro d s t h
    exact branch (by simp [Instr.op, pcWriters]) h
  case jmpAbs | jmpInd =>
    intro w s t h
    cases h
    exact setPc _ s (by simp [Instr.op, pcWriters])
  case tax | tsx | inx | dex =>
    intro s t h
    cases h
    exact (setX _ s (by decide)).trans (setNZ _ _ (by decide) (by decide))
  case tay | iny | dey =>
    intro s t h
    cases h
    exact (setY _ s (by decide)).trans (setNZ _ _ (by decide) (by decide))
  case txa | tya =>
    intro s t h
    cases h
    exact (setA _ s (.inl (by decide))).trans (setNZ _ _ (by decide) (by decide))
  case txs =>
    intro s t h
    cases h
    exact setSp _ s (by decide)
  case clc | sec | cli | sei | cld | sed | clv =>
    intro s t h
    cases h
    exact setFlag _ s (by decide)
  case nop =>
    intro s t h
    cases h
    exact refl s
  case pha | php =>
    intro s t h
    exact push (by decide) (fun u hu => by cases hu; exact refl _) h
  case pla =>
    intro s t h
    exact pull (by decide) (fun v u hu => by
      cases hu
      exact (setA v u (.inl (by decide))).trans (setNZ _ _ (by decide) (by decide))) h
  case plp =>
    intro s t h
    exact pull (by decide) (fun v u hu => by
      cases hu
      exact setP v u (fun f => by cases f <;> decide)) h
  case jsr =>
    intro w s t h
    exact pushWord (by simp [Instr.op, spWriters])
      (fun u hu => by cases hu; exact setPc _ u (by simp [Instr.op, pcWriters])) h
  case brk =>
    intro s t h
    exact pushWord (by decide) (fun u hu => push (by decide) (fun v hv => by
      cases hv
      exact (setFlag _ v (by decide)).trans (setPc _ _ (by decide))) hu) h
  case rts =>
    intro s t h
    exact pullWord (by decide) (fun w u hu => by cases hu; exact setPc _ u (by decide)) h
  case rti =>
    intro s t h
    exact pull (by decide) (fun p u hu => (setP p u (fun f => by cases f <;> decide)).trans
      (pullWord (by decide) (fun w v hv => by cases hv; exact setPc _ v (by decide)) hu)) h

end ChangesListed

theorem exec_changesListed {i : Instr} {s t : State} (h : exec i s = .next t) : ChangesListed i s s t :=
  ChangesListed.byRule.exec i h

end Sys2Proof.Machine

namespace Sys2Proof.Claims

open Sys2Proof.Machine

/-- Settles O17. -/
theorem unlistedFlagsAreBitIdentical : Obligations.UnlistedFlagsAreBitIdentical :=
  fun _ _ _ f h hop => ((exec_changesListed h).flags f).resolve_right hop

/-- Settles O18. -/
theorem registersChangeOnlyByTheirWriters : Obligations.RegistersChangeOnlyByTheirWriters := by
  intro i s t h
  obtain ⟨_, ha, hx, hy, hsp, _, hdraws⟩ := exec_changesListed h
  exact ⟨ha.resolve_left, hx.resolve_left, hy.resolve_left, hsp.resolve_left, hdraws.resolve_left⟩

end Sys2Proof.Claims
end

section
/-! Addresses as integers (41_addressing.md R454 to R463): page-0 wraps, pointer words, the page-wrap quirk of
JMP indirect and branch targets. -/

namespace Sys2Proof.Machine

open Sys2Proof.Claims (signed wordAt)

theorem zext16_toNat (v : Byte) : (zext16 v).toNat = v.toNat := by
  rw [zext16, BitVec.toNat_setWidth]
  omega

theorem zext16_eq_ofNat (v : Byte) : zext16 v = BitVec.ofNat 16 v.toNat := by
  rw [zext16, ← BitVec.ofNat_toNat]

theorem wordOf_eq_ofNat (hi lo : Byte) : wordOf hi lo = BitVec.ofNat 16 (hi.toNat * 256 + lo.toNat) := by
  rw [← wordOf_toNat, BitVec.ofNat_toNat, BitVec.setWidth_eq]

theorem wordOf_memRead (s : State) (lo hi : Addr) :
    wordOf (memRead s hi) (memRead s lo) = wordAt s.mem lo hi :=
  wordOf_eq_ofNat _ _

theorem zeroPagePointer_toNat (p : Byte) (s : State) :
    (zeroPagePointer p s).toNat =
      (s.mem.read (BitVec.ofNat 16 ((p.toNat + 1) % 256))).toNat * 256 +
        (s.mem.read (BitVec.ofNat 16 p.toNat)).toNat := by
  rw [zeroPagePointer, wordOf_toNat, zext16_eq_ofNat, zext16_eq_ofNat, BitVec.toNat_add]
  rfl

theorem getLsbD_wordOf (hi lo : Byte) (k : Nat) :
    (wordOf hi lo).getLsbD k = if k < 8 then lo.getLsbD k else hi.getLsbD (k - 8) :=
  BitVec.getLsbD_append

/-- The masks of R460 put together the page of one word and the offset of the other. -/
theorem nextInPage_eq_wordOf (w : Addr) : nextInPage w = wordOf (hiByte w) (loByte (w + 1)) := by
  unfold nextInPage
  generalize w + 1 = next
  apply BitVec.eq_of_getLsbD_eq
  intro k hk
  rw [getLsbD_wordOf]
  interval_cases k <;> simp [hiByte, loByte]

theorem nextInPage_eq_ofNat (w : Addr) :
    nextInPage w = BitVec.ofNat 16 (w.toNat / 256 * 256 + (w.toNat + 1) % 256) := by
  have hlow : (w + 1).toNat % 256 = (w.toNat + 1) % 256 := by bv_omega
  rw [nextInPage_eq_wordOf, wordOf_eq_ofNat, hiByte_toNat, loByte_toNat, hlow]

theorem signed_eq_toInt (d : Byte) : signed d = d.toInt := by
  rw [signed, BitVec.toInt_eq_msb_cond, BitVec.msb_eq_decide]
  simp

theorem add_sext16_eq_ofInt (pc : Addr) (d : Byte) :
    pc + sext16 d = BitVec.ofInt 16 ((pc.toNat : Int) + signed d) := by
  rw [BitVec.ofInt_add, BitVec.ofInt_natCast, BitVec.ofNat_toNat, BitVec.setWidth_eq, signed_eq_toInt]
  rfl

end Sys2Proof.Machine

namespace Sys2Proof.Claims

open Sys2Proof.Machine

/-- Settles O24: byte addition wraps modulo 256, and zero extension keeps the number. -/
theorem zeroPageModesWrapInPageZero : Obligations.ZeroPageModesWrapInPageZero := by
  intro z s
  simp [effAddr, zext16_toNat]

/-- Settles O25: byte and word addition wrap, and the pointer's bytes are read at byte addresses. -/
theorem wordAndPointerModesAsIntegers : Obligations.WordAndPointerModesAsIntegers := by
  intro z w s pointer
  refine ⟨rfl, ?absX, ?absY, ?indX, ?indY⟩
  case absX => simp [effAddr, zext16_toNat]
  case absY => simp [effAddr, zext16_toNat]
  case indX => simp [effAddr, zeroPagePointer_toNat, pointer]
  case indY =>
    simp [effAddr, zeroPagePointer_toNat, zext16_toNat, pointer, Nat.mod_eq_of_lt z.isLt]

end Sys2Proof.Claims
end

section
/-! Branches and JMP (47_branch_jump.md R750 to R760), and PC after a step (40_sequencer.md section 2). -/

namespace Sys2Proof.Claims

open Sys2Proof.Machine

theorem branches_of_exec {op : Byte} {mk : Byte → Instr} {f : Flag} {taken : Bool}
    (hshape : shapeOf op = some (.two mk))
    (hexec : ∀ d s, exec (mk d) s = branch (s.flag f == taken) d s) : Branches op mk f taken := by
  intro d
  refine ⟨decodes_two hshape d, fun s => ⟨_, hexec d s, ?taken, ?notTaken⟩⟩
  case taken =>
    intro h
    rw [if_pos (by simpa using h), branchTarget, add_sext16_eq_ofInt]
    rfl
  case notTaken =>
    intro h
    rw [if_neg (by simpa using h)]

/-- Settles O44. -/
theorem branchesFollowTheirFlag : Obligations.BranchesFollowTheirFlag := by
  unfold Obligations.BranchesFollowTheirFlag
  exact ⟨
    branches_of_exec rfl fun d s => by rw [beq_false]; rfl,
    branches_of_exec rfl fun d s => by rw [beq_true]; rfl,
    branches_of_exec rfl fun d s => by rw [beq_false]; rfl,
    branches_of_exec rfl fun d s => by rw [beq_true]; rfl,
    branches_of_exec rfl fun d s => by rw [beq_false]; rfl,
    branches_of_exec rfl fun d s => by rw [beq_true]; rfl,
    branches_of_exec rfl fun d s => by rw [beq_false]; rfl,
    branches_of_exec rfl fun d s => by rw [beq_true]; rfl⟩

theorem indirectTarget_eq_wordAt (w : Addr) (s : State) :
    indirectTarget w s =
      wordAt s.mem w (BitVec.ofNat 16 (w.toNat / 256 * 256 + (w.toNat + 1) % 256)) := by
  rw [indirectTarget, wordOf_memRead, nextInPage_eq_ofNat]

/-- Settles O45. -/
theorem jmpReachesItsTarget : Obligations.JmpReachesItsTarget := by
  refine ⟨fun w => ⟨decodes_three rfl w, fun s => ⟨_, rfl, rfl⟩⟩,
    fun w => ⟨decodes_three rfl w, fun s => ⟨_, rfl, ?indirect⟩⟩⟩
  case indirect =>
    rw [indirectTarget_eq_wordAt]
    rfl

/-- The branches. -/
def branchOps : List Op := [.bpl, .bmi, .bvc, .bvs, .bcc, .bcs, .bne, .beq]

/-- A branch is two bytes, the second its displacement, and its meaning is a conditional move of PC. -/
theorem exec_eq_branch {i : Instr} (hop : i.op ∈ branchOps) :
    ∃ op d, encode i = [op, d] ∧ ∀ s, ∃ cond, exec i s = branch cond d s := by
  cases i <;> simp [Instr.op, branchOps] at hop
  all_goals exact ⟨_, _, rfl, fun s => ⟨_, rfl⟩⟩

theorem fetchBytes_of_fetch {s : State} {i : Instr} (h : fetch s = some i) :
    ∃ rest, fetchBytes s = encode i ++ rest := by
  unfold fetch at h
  split at h
  · next j rest hdecode =>
    cases h
    exact ⟨rest, encode_of_decode hdecode⟩
  · simp at h

/-- Settles O11: PC is not among what an instruction outside the table of PC's writers changes, and a branch
adds its displacement byte, which is the byte after the opcode. -/
theorem pcIsNextUnlessTheInstructionWritesIt : Obligations.PcIsNextUnlessTheInstructionWritesIt := by
  intro s t i h hfetch hok
  obtain ⟨hrun, ⟨hnone, _⟩ | ⟨i', hfetch', hexec⟩⟩ := step_cases h
  · simp [hnone] at hfetch
  cases hfetch.symm.trans hfetch'
  constructor
  · intro hop
    exact (exec_changesListed hexec).pc.resolve_right hop
  · intro hop
    obtain ⟨op, d, hencode, hbranch⟩ := exec_eq_branch hop
    obtain ⟨rest, hbytes⟩ := fetchBytes_of_fetch hfetch
    have hd : s.mem.read (s.pc + 1) = d := by
      rw [hencode] at hbytes
      simp only [fetchBytes, List.cons_append, List.cons.injEq] at hbytes
      exact hbytes.2.1
    have hlength : i.length = 2 := by
      rw [← (Laws.Encoding.statement i).1, hencode]
      rfl
    have hpc : (advance i s).pc = s.pc + 2 := by
      rw [advance_pc, hlength]
      rfl
    obtain ⟨cond, hcond⟩ := hbranch (advance i s)
    rw [hcond] at hexec
    cases hexec
    cases cond with
    | false => exact .inl hpc
    | true =>
      right
      rw [hd]
      calc (advance i s).pc + sext16 d
          = s.pc + sext16 d + 2 := by rw [hpc, add_right_comm]
        _ = BitVec.ofInt 16 ((s.pc.toNat : Int) + signed d + 2) := by
          rw [add_sext16_eq_ofInt]
          exact (BitVec.ofInt_add _ 2).symm
        _ = BitVec.ofInt 16 ((s.pc.toNat : Int) + 2 + signed d) := by rw [Int.add_right_comm]

end Sys2Proof.Claims
end

section
/-! The access list of an instruction that completes (20_memory.md section 3): no access is cut off, so each
family makes the accesses its rule lists. -/

namespace Sys2Proof.Machine

variable {i : Instr} {s t : State}

theorem pushAccesses_of_full {n : Nat} (h : (pushAccesses n s).length = n) :
    pushAccesses n s = (List.range n).map fun k => .write (stackAddr (s.sp - BitVec.ofNat 8 k)) := by
  induction n generalizing s with
  | zero => rfl
  | succ n ih =>
    unfold pushAccesses at h ⊢
    split at h
    · simp at h
    · next hok =>
      have hnext : ∀ k, s.sp - 1#8 - BitVec.ofNat 8 k = s.sp - BitVec.ofNat 8 (k + 1) := by
        intro k
        rw [BitVec.ofNat_add]
        bv_omega
      rw [if_neg hok, ih (by simpa using h), List.range_succ_eq_map]
      simp [hnext, Function.comp_def]

theorem pullAccesses_of_full {n : Nat} (h : (pullAccesses n s).length = n) :
    pullAccesses n s = (List.range n).map fun k => .read (stackAddr (s.sp + BitVec.ofNat 8 (k + 1))) := by
  induction n generalizing s with
  | zero => rfl
  | succ n ih =>
    unfold pullAccesses at h ⊢
    split at h
    · simp at h
    · next hok =>
      have hnext : ∀ k, s.sp + 1#8 + BitVec.ofNat 8 (k + 1) = s.sp + BitVec.ofNat 8 (k + 1 + 1) := by
        intro k
        rw [BitVec.ofNat_add]
        bv_omega
      rw [if_neg hok, ih (by simpa using h), List.range_succ_eq_map]
      simp [hnext, Function.comp_def]

namespace Effect

theorem inRom_eq_false (h : Effect i s t) (hrun : t.fault = none) (hop : i.op ∈ storeOps ++ modifyOps)
    {m : MemOperand} (hm : memOperandOf i = some m) : inRom s (effAddr m s) = false := by
  have hstack : i.op ∉ pushOps ++ pullOps :=
    (by decide : ∀ op ∈ storeOps ++ modifyOps, op ∉ pushOps ++ pullOps) _ hop
  cases h with
  | quiet _ hoperand => simp [hoperand hop] at hm
  | wrote m' _ _ hm' hrom =>
    cases hm.symm.trans hm'
    exact hrom
  | violated _ _ _ _ hraise => simp [hraise] at hrun
  | pushed _ hop' => exact absurd (List.mem_append_left _ hop') hstack
  | pushFaulted _ _ hop' => exact absurd (List.mem_append_left _ hop') hstack
  | pulled hop' => exact absurd (List.mem_append_right _ hop') hstack
  | pullFaulted hop' => exact absurd (List.mem_append_right _ hop') hstack

theorem pushes_full (h : Effect i s t) (hrun : t.fault = none) (hop : i.op ∈ pushOps) :
    (pushAccesses (stackBytes i.op) s).length = stackBytes i.op := by
  have hother : i.op ∉ storeOps ++ modifyOps ++ pullOps :=
    (by decide : ∀ op ∈ pushOps, op ∉ storeOps ++ modifyOps ++ pullOps) _ hop
  cases h with
  | quiet hstack => exact absurd (List.mem_append_left _ hop) hstack
  | wrote _ _ hop' => exact absurd (List.mem_append_left _ hop') hother
  | violated _ hop' => exact absurd (List.mem_append_left _ hop') hother
  | pushed _ _ _ hfull => exact hfull
  | pushFaulted _ _ _ _ _ _ hraise => simp [hraise] at hrun
  | pulled hop' => exact absurd (List.mem_append_right _ hop') hother
  | pullFaulted hop' => exact absurd (List.mem_append_right _ hop') hother

theorem pulls_full (h : Effect i s t) (hrun : t.fault = none) (hop : i.op ∈ pullOps) :
    (pullAccesses (stackBytes i.op) s).length = stackBytes i.op := by
  have hother : i.op ∉ storeOps ++ modifyOps ++ pushOps :=
    (by decide : ∀ op ∈ pullOps, op ∉ storeOps ++ modifyOps ++ pushOps) _ hop
  cases h with
  | quiet hstack => exact absurd (List.mem_append_right _ hop) hstack
  | wrote _ _ hop' => exact absurd (List.mem_append_left _ hop') hother
  | violated _ hop' => exact absurd (List.mem_append_left _ hop') hother
  | pushed _ hop' => exact absurd (List.mem_append_right _ hop') hother
  | pushFaulted _ _ hop' => exact absurd (List.mem_append_right _ hop') hother
  | pulled _ hfull => exact hfull
  | pullFaulted _ hunder =>
    rw [hunder.frame] at hrun
    simp at hrun

end Effect

/-- No modify has a pointer mode. -/
theorem pointerReads_of_modify {m : MemOperand} (hop : i.op ∈ modifyOps) (hm : memOperandOf i = some m) :
    pointerReads m s = [] := by
  cases i <;> simp [Instr.op, modifyOps] at hop <;> cases hm <;> rfl

end Sys2Proof.Machine

namespace Sys2Proof.Claims

open Sys2Proof.Machine

theorem readsOfPointer_eq_pointerReads (m : MemOperand) (s : State) :
    readsOfPointer m s = pointerReads m s := by
  cases m <;> simp [readsOfPointer, pointerReads, zeroPageRead, zext16_eq_ofNat, BitVec.toNat_add,
    Nat.mod_eq_of_lt (BitVec.isLt _)]

variable {i : Instr} {s t : State}

/-- The writes of a pushing instruction that completes, and after them the vector reads of BRK. -/
theorem accesses_of_pushes (h : exec i s = .next t) (hok : t.fault = none) (hop : i.op ∈ pushOps) :
    accesses i s = ((List.range (stackBytes i.op)).map fun k => .write (stackByte (s.sp - BitVec.ofNat 8 k))) ++
      if i.op = .brk then vectorReads else [] := by
  have hfull := (exec_effect h).pushes_full hok hop
  simp only [accesses_push_full hop hfull, pushAccesses_of_full hfull, stackByte_eq_stackAddr]

/-- The reads of a pulling instruction that completes. -/
theorem accesses_of_pulls (h : exec i s = .next t) (hok : t.fault = none) (hop : i.op ∈ pullOps) :
    accesses i s =
      (List.range (stackBytes i.op)).map fun k => .read (stackByte (s.sp + BitVec.ofNat 8 (k + 1))) := by
  have hfull := (exec_effect h).pulls_full hok hop
  simp only [accesses_pull hop, pullAccesses_of_full hfull, stackByte_eq_stackAddr]

/-- Settles O20: the list of each family, with nothing cut off by a fault. -/
theorem accessListsHaveTheListedWidths : Obligations.AccessListsHaveTheListedWidths := by
  intro i s t _ h hok
  have heffect := exec_effect h
  refine ⟨fun m hm => ⟨?loads, ?stores, ?modifies⟩, ?push, ?pull, ?jsr, ?rts, ?rti, ?brk, ?jmp, ?others⟩
  case loads =>
    intro hop
    rw [accesses_load hop, operandAccesses_some hm, readsOfPointer_eq_pointerReads]
  case stores =>
    intro hop
    have hrom := heffect.inRom_eq_false hok (List.mem_append_left _ hop) hm
    rw [accesses_store hop, operandAccesses_some hm, readsOfPointer_eq_pointerReads, writeAccess_of_ok hrom]
  case modifies =>
    intro hop
    have hrom := heffect.inRom_eq_false hok (List.mem_append_right _ hop) hm
    rw [accesses_modify hop, operandAccesses_some hm, pointerReads_of_modify hop hm,
      writeAccess_of_ok hrom]
    rfl
  case push =>
    intro hop
    have hone : ∀ op ∈ [Op.pha, .php], op ∈ pushOps ∧ stackBytes op = 1 ∧ op ≠ .brk := by decide
    obtain ⟨hpush, hbytes, hbrk⟩ := hone _ hop
    rw [accesses_of_pushes h hok hpush, hbytes, if_neg hbrk]
    simp
  case pull =>
    intro hop
    have hone : ∀ op ∈ [Op.pla, .plp], op ∈ pullOps ∧ stackBytes op = 1 := by decide
    obtain ⟨hpull, hbytes⟩ := hone _ hop
    rw [accesses_of_pulls h hok hpull, hbytes]
    simp
  case jsr =>
    intro hop
    rw [accesses_of_pushes h hok (hop ▸ by decide), hop]
    simp [stackBytes, List.range_succ]
  case brk =>
    intro hop
    rw [accesses_of_pushes h hok (hop ▸ by decide), hop]
    simp [stackBytes, List.range_succ, vectorReads, brkVector]
  case rts =>
    intro hop
    rw [accesses_of_pulls h hok (hop ▸ by decide), hop]
    simp [stackBytes, List.range_succ]
  case rti =>
    intro hop
    rw [accesses_of_pulls h hok (hop ▸ by decide), hop]
    simp [stackBytes, List.range_succ]
  case jmp =>
    rintro w rfl
    rw [← nextInPage_eq_ofNat]
    rfl
  case others =>
    intro hm hop hjmp
    by_cases hoperand : i.op ∈ loadOps ++ storeOps ++ modifyOps
    · simp only [List.mem_append] at hoperand
      rcases hoperand with (hload | hstore) | hmodify
      · rw [accesses_load hload, operandAccesses_none hm]
      · rw [accesses_store hstore, operandAccesses_none hm]
      · rw [accesses_modify hmodify, operandAccesses_none hm]
    · refine accesses_none ?_ hjmp
      have hlisted : ∀ op ∈ pushOps ++ pullOps,
          op ∈ [Op.pha, .php, .pla, .plp, .jsr, .rts, .rti, .brk] := by decide
      rw [List.append_assoc, List.mem_append, not_or]
      exact ⟨hoperand, fun hstack => hop (hlisted _ hstack)⟩

end Sys2Proof.Claims
end

section
/-! Locality (20_memory.md section 6): what an instruction does is a function of the registers and of the bytes
it is listed as reading. From every memory that holds those bytes the outcome is one state and one list of
writes. -/

namespace Sys2Proof.Machine

open Sys2Proof.Claims (pushed)

/-- A memory after a list of writes, the first made first. -/
def Memory.writes (m : Memory) (ws : List (Addr × Byte)) : Memory :=
  ws.foldl (fun m w => m.write w.1 w.2) m

/-- Writes leave two canonical memories alike where they were alike and where they write. -/
theorem Memory.read_writes_eq {ws : List (Addr × Byte)} {addr : Addr} {m m' : Memory} (hm : m.wf = true)
    (hm' : m'.wf = true) (h : addr ∈ ws.map Prod.fst ∨ m'.read addr = m.read addr) :
    (m'.writes ws).read addr = (m.writes ws).read addr := by
  induction ws generalizing m m' with
  | nil => exact h.resolve_left List.not_mem_nil
  | cons w ws ih =>
    refine ih (m.write_wf _ _ hm) (m'.write_wf _ _ hm') ?_
    by_cases haddr : addr = w.1
    · rw [haddr, m.read_write_same _ _ hm, m'.read_write_same _ _ hm']
      exact .inr rfl
    · rw [m.read_write_other _ _ _ haddr, m'.read_write_other _ _ _ haddr]
      simpa [haddr] using h

/-- A result that is a function of memory depends on it only through the bytes `made` reads: from every
memory that has them as `mem₀` has, it is one state after one list of writes, which has every address that
`made` writes. -/
def DependsOnReads (made : List Access) (mem₀ : Memory) (r : Memory → Result) : Prop :=
  ∃ (t : State) (ws : List (Addr × Byte)),
    (∀ m, (∀ addr, .read addr ∈ made → m.read addr = mem₀.read addr) →
      r m = .next (t.setMem (m.writes ws))) ∧
    ∀ addr, .write addr ∈ made → addr ∈ ws.map Prod.fst

/-- A state update that neither reads nor writes memory. -/
def IgnoresMemory (g : State → State) : Prop := ∀ s m, g (s.setMem m) = (g s).setMem m

theorem State.setMem_setMem (s : State) (m m' : Memory) : (s.setMem m).setMem m' = s.setMem m' := rfl

theorem ignoresMemory_raise (f : Fault) : IgnoresMemory (raise f) := fun _ _ => rfl

/-- The accesses of `n` pushes, and after the last of them, if none faults, some more. -/
def pushThen (n : Nat) (s : State) (after : List Access) : List Access :=
  if (pushAccesses n s).length = n then pushAccesses n s ++ after else pushAccesses n s

theorem read_mem_pushThen {n : Nat} {s : State} {after : List Access} {addr : Addr}
    (h : .read addr ∈ pushThen n s after) : .read addr ∈ after := by
  have hnot : .read addr ∉ pushAccesses n s := fun hmem => by
    obtain ⟨_, hwrite, _⟩ := exists_of_mem_pushAccesses hmem
    simp at hwrite
  unfold pushThen at h
  split at h <;> simp_all

namespace DependsOnReads

variable {s : State} {made after : List Access} {mem₀ : Memory} {g : State → State}

theorem next (hg : IgnoresMemory g) (s : State) (hmade : ∀ addr, .write addr ∉ made) :
    DependsOnReads made mem₀ fun m => .next (g (s.setMem m)) :=
  ⟨g s, [], fun m _ => congrArg _ (hg s m), fun addr h => absurd h (hmade addr)⟩

/-- A write of one value to one address, checked against ROM, after the reads of a list. -/
theorem memWrite (reads : List Access) {addr : Addr} {v : Byte} {r : Memory → Result}
    (hreads : ∀ addr, .write addr ∉ reads) (hg : IgnoresMemory g)
    (hr : ∀ m, (∀ addr, .read addr ∈ reads → m.read addr = mem₀.read addr) →
      r m = memWrite addr v (s.setMem m) fun u => .next (g u)) :
    DependsOnReads (reads ++ writeAccess addr s) mem₀ r := by
  cases hrom : inRom s addr with
  | true =>
    refine ⟨raise (.romViolation addr) s, [], fun m hm => ?_, by simp [writeAccess, hrom, hreads]⟩
    exact (hr m fun a ha => hm a (List.mem_append_left _ ha)).trans (memWrite_rom (s := s.setMem m) _ _ hrom)
  | false =>
    refine ⟨g s, [(addr, v)], fun m hm => ?_, by simp [writeAccess, hrom, hreads]⟩
    calc r m = Machine.memWrite addr v (s.setMem m) fun u => .next (g u) :=
          hr m fun a ha => hm a (List.mem_append_left _ ha)
      _ = .next (g (s.setMem (m.write addr v))) := memWrite_ok (s := s.setMem m) addr v hrom
      _ = .next ((g s).setMem (m.writes [(addr, v)])) := congrArg _ (hg s _)

theorem pull {n : Nat} {rest : Byte → Rest}
    (hrest : DependsOnReads (pullAccesses n (s.setSp (s.sp + 1))) mem₀ fun m =>
      rest (mem₀.read (stackAddr (s.sp + 1))) ((s.setSp (s.sp + 1)).setMem m)) :
    DependsOnReads (pullAccesses (n + 1) s) mem₀ fun m => pull (s.setMem m) rest := by
  cases hunder : pullUnderflows s with
  | true =>
    refine ⟨raise .stackUnderflow s, [], fun m _ => ?_, by simp [pullAccesses, hunder]⟩
    exact pull_underflow hunder
  | false =>
    obtain ⟨t, ws, ht, hws⟩ := hrest
    rw [pullAccesses_of_ok n hunder]
    refine ⟨t, ws, fun m hm => ?_, by simpa using hws⟩
    have hbyte : m.read (stackAddr (s.sp + 1)) = mem₀.read (stackAddr (s.sp + 1)) :=
      hm _ List.mem_cons_self
    calc Machine.pull (s.setMem m) rest
        = rest (m.read (stackAddr (s.sp + 1))) ((s.setSp (s.sp + 1)).setMem m) := pull_ok hunder
      _ = .next (t.setMem (m.writes ws)) := by
        rw [hbyte]
        exact ht m fun addr h => hm addr (List.mem_cons_of_mem _ h)

/-- A list of pushes of values that do not depend on memory. What follows reads outside the stack page, so
the pushes do not change what it reads. -/
theorem pushAll {vs : List Byte} {rest : Rest} (hafter : ∀ sp, .read (stackAddr sp) ∉ after)
    (hrest : ∀ sp, DependsOnReads after mem₀ fun m => rest ((s.setSp sp).setMem m)) :
    DependsOnReads (pushThen vs.length s after) mem₀ fun m => pushAll vs (s.setMem m) rest := by
  induction vs generalizing s with
  | nil => exact hrest s.sp
  | cons v vs ih =>
    have hset : ∀ m, pushFault (s.setMem m) = pushFault s := fun m => rfl
    cases hfault : pushFault s with
    | some f =>
      refine ⟨raise f s, [], fun m _ => push_of_fault v _ ((hset m).trans hfault), ?_⟩
      simp [pushThen, pushAccesses_of_fault _ hfault]
    | none =>
      obtain ⟨t, ws, ht, hws⟩ := ih (s := s.setSp (s.sp - 1)) hrest
      have hmade : pushThen (v :: vs).length s after =
          .write (stackAddr s.sp) :: pushThen vs.length (s.setSp (s.sp - 1)) after := by
        have hcongr := pushAccesses_congr (u := pushed v s) (s := s.setSp (s.sp - 1)) vs.length rfl rfl
        rw [pushThen, pushThen, List.length_cons, pushAccesses_of_no_fault _ v hfault, hcongr]
        split <;> simp_all
      rw [hmade]
      refine ⟨t, (stackAddr s.sp, v) :: ws, fun m hm => ?_, ?_⟩
      · have hnext : pushed v (s.setMem m) =
            (s.setSp (s.sp - 1)).setMem (m.write (stackAddr s.sp) v) := by
          rw [← stackByte_eq_stackAddr]
          rfl
        calc Machine.pushAll (v :: vs) (s.setMem m) rest
            = Machine.pushAll vs (pushed v (s.setMem m)) rest :=
              push_of_no_fault v _ ((hset m).trans hfault)
          _ = .next (t.setMem ((m.write (stackAddr s.sp) v).writes ws)) := by
            rw [hnext]
            refine ht _ fun addr haddr => ?_
            have hne : addr ≠ stackAddr s.sp := by
              rintro rfl
              exact hafter _ (read_mem_pushThen haddr)
            rw [m.read_write_other _ _ _ hne, hm addr (List.mem_cons_of_mem _ haddr)]
      · simpa using fun addr h => .inr (by simpa using hws addr h)

end DependsOnReads

end Sys2Proof.Machine
end

section
/-! Every instruction depends on the bytes it is listed as reading, and on no other byte: by the families of
meanings. -/

namespace Sys2Proof.Machine

/-- The outcome of an instruction as a function of memory, from the registers of a state. -/
def Local (i : Instr) (s : State) : Prop :=
  DependsOnReads (accesses i s) s.mem fun m => exec i (s.setMem m)

variable {i : Instr} {s : State} {op : MemOperand} {m : Memory}

section Operand

theorem pointerReads_setMem (op : MemOperand) (s : State) (m : Memory) :
    pointerReads op (s.setMem m) = pointerReads op s := by
  cases op <;> rfl

theorem write_not_mem_pointerReads (addr : Addr) : .write addr ∉ pointerReads op s := by
  cases op <;> simp [pointerReads]

/-- The effective address is a function of the registers and the pointer bytes. -/
theorem effAddr_setMem (h : ∀ addr, .read addr ∈ pointerReads op s → m.read addr = s.mem.read addr) :
    effAddr op (s.setMem m) = effAddr op s := by
  cases op with
  | indexedIndirectX z | indirectIndexedY z =>
    simp only [pointerReads] at h
    simp_all [effAddr, zeroPagePointer, memRead]
  | _ => rfl

/-- So is the byte at the effective address, once that is read too. -/
theorem memRead_effAddr_setMem
    (h : ∀ addr, .read addr ∈ pointerReads op s ++ [.read (effAddr op s)] →
      m.read addr = s.mem.read addr) :
    memRead (s.setMem m) (effAddr op (s.setMem m)) = memRead s (effAddr op s) := by
  rw [effAddr_setMem fun addr hmem => h addr (List.mem_append_left _ hmem)]
  exact h _ (by simp)

theorem operandAccesses_setMem {rest : Addr → List Access}
    (h : ∀ op, memOperandOf i = some op → ∀ addr, .read addr ∈ pointerReads op s →
      m.read addr = s.mem.read addr) :
    operandAccesses rest i (s.setMem m) = operandAccesses rest i s := by
  cases hop : memOperandOf i with
  | none => rw [operandAccesses_none hop, operandAccesses_none hop]
  | some op =>
    rw [operandAccesses_some hop, operandAccesses_some hop, pointerReads_setMem, effAddr_setMem (h op hop)]

end Operand

theorem accesses_eq_pushThen (h : i.op ∈ pushOps) :
    accesses i s = pushThen (stackBytes i.op) s (if i.op = .brk then vectorReads else []) := by
  unfold pushThen
  split
  · next hfull => exact accesses_push_full h hfull
  · next hnot => exact accesses_push_short h (lt_of_le_of_ne (pushAccesses_length_le _ s) hnot)

/-- Memories that agree on what is read make the same accesses. -/
theorem accesses_setMem (h : ∀ addr, .read addr ∈ accesses i s → m.read addr = s.mem.read addr) :
    accesses i (s.setMem m) = accesses i s := by
  have hpointer : ∀ rest, accesses i s = operandAccesses rest i s → ∀ op, memOperandOf i = some op →
      ∀ addr, .read addr ∈ pointerReads op s → m.read addr = s.mem.read addr := by
    intro rest heq op hop addr hmem
    refine h addr ?_
    rw [heq, operandAccesses_some hop]
    exact List.mem_append_left _ hmem
  by_cases hload : i.op ∈ loadOps
  · rw [accesses_load hload, accesses_load hload, operandAccesses_setMem (hpointer _ (accesses_load hload))]
  by_cases hstore : i.op ∈ storeOps
  · rw [accesses_store hstore, accesses_store hstore,
      operandAccesses_setMem (hpointer _ (accesses_store hstore))]
    rfl
  by_cases hmodify : i.op ∈ modifyOps
  · rw [accesses_modify hmodify, accesses_modify hmodify,
      operandAccesses_setMem (hpointer _ (accesses_modify hmodify))]
    rfl
  by_cases hpush : i.op ∈ pushOps
  · rw [accesses_eq_pushThen hpush, accesses_eq_pushThen hpush, pushThen, pushThen,
      pushAccesses_congr _ (State.setMem_sp s m) (State.setMem_cfg s m)]
  by_cases hpull : i.op ∈ pullOps
  · rw [accesses_pull hpull, accesses_pull hpull,
      pullAccesses_congr _ (State.setMem_sp s m) (State.setMem_cfg s m)]
  · by_cases hjmp : ∀ w, i ≠ .jmpInd w
    · rw [accesses_none (by simp [*]) hjmp, accesses_none (by simp [*]) hjmp]
    · obtain ⟨w, rfl⟩ : ∃ w, i = .jmpInd w := by simpa using hjmp
      rfl

namespace Local

/-- A meaning that neither reads nor writes memory. -/
theorem quiet {g : State → State} (hexec : ∀ u, exec i u = .next (g u)) (hg : IgnoresMemory g)
    (haccess : accesses i s = []) : Local i s := by
  unfold Local
  simp only [hexec, haccess]
  exact .next hg s (by simp)

theorem branch {cond : State → Bool} {d : Byte} (hcond : ∀ m, cond (s.setMem m) = cond s)
    (hexec : ∀ u, exec i u = branch (cond u) d u) (haccess : accesses i s = []) : Local i s := by
  unfold Local
  simp only [hexec, haccess, hcond, Machine.branch]
  cases cond s with
  | true => exact .next (g := fun u => u.setPc (branchTarget d u)) (fun _ _ => rfl) s (by simp)
  | false => exact .next (g := id) (fun _ _ => rfl) s (by simp)

/-- Pushes of bytes that are functions of the registers, and then an update that ignores memory. -/
theorem push {vs : State → List Byte} {g : State → State} (hop : i.op ∈ pushOps) (hbrk : i.op ≠ .brk)
    (hvs : ∀ m, vs (s.setMem m) = vs s) (hbytes : stackBytes i.op = (vs s).length) (hg : IgnoresMemory g)
    (hexec : ∀ u, exec i u = pushAll (vs u) u fun t => .next (g t)) : Local i s := by
  unfold Local
  rw [accesses_eq_pushThen hop, if_neg hbrk, hbytes]
  simp only [hexec, hvs]
  exact .pushAll (by simp) fun sp => .next hg (s.setSp sp) (by simp)

theorem pull {g : Byte → State → State} (hg : ∀ v, IgnoresMemory (g v)) (haccess : accesses i s = pullAccesses 1 s)
    (hexec : ∀ u, exec i u = pull u fun v t => .next (g v t)) : Local i s := by
  unfold Local
  simp only [haccess, hexec]
  exact .pull (.next (hg _) _ (by simp [pullAccesses]))

theorem pullWord {g : Addr → State → State} (hg : ∀ w, IgnoresMemory (g w)) (s : State) :
    DependsOnReads (pullAccesses 2 s) s.mem fun m => pullWord (s.setMem m) fun w t => .next (g w t) := by
  unfold Machine.pullWord
  refine .pull (.pull ?_)
  exact .next (hg _) _ (by simp [pullAccesses])

theorem rts (s : State) : Local .rts s :=
  pullWord (g := fun w t => t.setPc (w + 1)) (fun _ _ _ => rfl) s

theorem rti (s : State) : Local .rti s := by
  have haccess : accesses .rti s = pullAccesses 3 s := accesses_pull (by decide)
  have hexec : ∀ u, exec .rti u = Machine.pull u fun p t =>
      Machine.pullWord (t.setP p) fun w v => .next (v.setPc w) := fun _ => rfl
  unfold Local
  simp only [haccess, hexec]
  refine .pull ?_
  rw [← pullAccesses_congr 2 (State.setP_sp _ (s.mem.read (stackAddr (s.sp + 1)))) (State.setP_cfg _ _)]
  exact pullWord (fun _ _ _ => rfl) _

/-- The vector lies outside the stack page, so the pushes do not change it. -/
theorem read_stackAddr_not_mem_vectorReads (sp : Byte) : .read (stackAddr sp) ∉ vectorReads := by
  intro hmem
  have haddr : stackAddr sp = 0xFFFE#16 ∨ stackAddr sp = 0xFFFF#16 := by
    simpa [vectorReads, brkVector] using hmem
  have hsp := stackAddr_toNat sp
  rcases haddr with h | h <;> rw [h] at hsp <;> simp at hsp <;> omega

theorem brk (s : State) : Local .brk s := by
  have haccess : accesses .brk s = pushThen 3 s vectorReads := accesses_eq_pushThen (by decide)
  have hexec : ∀ m, exec .brk (s.setMem m) = pushAll [hiByte (s.pc + 1), loByte (s.pc + 1), pushedP s.p]
      (s.setMem m) fun u => .next ((u.setFlag .i true).setPc (memRead16 u brkVector)) :=
    fun m => enterTrap_eq_pushAll _ _
  unfold Local
  simp only [haccess, hexec]
  refine .pushAll (vs := [hiByte (s.pc + 1), loByte (s.pc + 1), pushedP s.p])
    read_stackAddr_not_mem_vectorReads fun sp => ?_
  refine ⟨((s.setSp sp).setFlag .i true).setPc (memRead16 s brkVector), [], fun m hm => ?_,
    by simp [vectorReads]⟩
  have hlo : m.read brkVector = s.mem.read brkVector := hm _ (by simp [vectorReads])
  have hhi : m.read (brkVector + 1) = s.mem.read (brkVector + 1) := hm _ (by simp [vectorReads])
  have hvector : memRead16 ((s.setSp sp).setMem m) brkVector = memRead16 s brkVector := by
    simp only [memRead16, memRead, State.setMem_mem, hlo, hhi]
  simp only [hvector]
  rfl

theorem jmpInd (w : Addr) (s : State) : Local (.jmpInd w) s := by
  refine ⟨s.setPc (indirectTarget w s), [], fun m hm => ?_, by simp [accesses]⟩
  have hlo : m.read w = s.mem.read w := hm _ (by simp [accesses])
  have hhi : m.read (nextInPage w) = s.mem.read (nextInPage w) := hm _ (by simp [accesses])
  have htarget : indirectTarget w (s.setMem m) = indirectTarget w s := by
    simp [indirectTarget, memRead, hlo, hhi]
  show Host.Outcome.next ((s.setMem m).setPc (indirectTarget w (s.setMem m))) = _
  rw [htarget]
  rfl

end Local

/-- A reading operation, whose rule looks at its operand and otherwise ignores memory. -/
structure IsLoad (o : Op) (rule : Source → State → Result) (g : Byte → State → State) : Prop where
  listed : o ∈ loadOps
  rule_eq : ∀ src s, rule src s = .next (g (load src s) s)
  ignores : ∀ v, IgnoresMemory (g v)

/-- The memory operand of a source. -/
def Source.operand : Source → Option MemOperand
  | .imm _ => none
  | .mem op => some op

theorem IsLoad.isLocal {o : Op} {rule : Source → State → Result} {g : Byte → State → State} {src : Source}
    (hrule : IsLoad o rule g) (hexec : ∀ u, exec i u = rule src u) (hop : i.op = o)
    (hsrc : memOperandOf i = src.operand) : Local i s := by
  have hload : i.op ∈ loadOps := hop ▸ hrule.listed
  refine ⟨g (load src s) s, [], fun m hm => ?_, ?_⟩
  · have hvalue : load src (s.setMem m) = load src s := by
      cases src with
      | imm v => rfl
      | mem op =>
        rw [accesses_load hload, operandAccesses_some hsrc] at hm
        exact memRead_effAddr_setMem hm
    calc exec i (s.setMem m) = .next (g (load src (s.setMem m)) (s.setMem m)) := by
          rw [hexec, hrule.rule_eq]
      _ = .next ((g (load src s) s).setMem (m.writes [])) := by
          rw [hvalue, hrule.ignores]
          rfl
  · intro addr hmem
    rw [accesses_load hload] at hmem
    unfold operandAccesses at hmem
    split at hmem
    · simp at hmem
    · simp [write_not_mem_pointerReads] at hmem

/-- A storing operation, whose rule writes a register. -/
structure IsStore (o : Op) (rule : MemOperand → State → Result) (reg : State → Byte) : Prop where
  listed : o ∈ storeOps
  rule_eq : ∀ op u, rule op u = memWrite (effAddr op u) (reg u) u .next
  ignores : ∀ s m, reg (s.setMem m) = reg s

theorem IsStore.isLocal {o : Op} {rule : MemOperand → State → Result} {reg : State → Byte}
    (hrule : IsStore o rule reg) (hexec : ∀ u, exec i u = rule op u) (hop : i.op = o)
    (hm : memOperandOf i = some op) : Local i s := by
  unfold Local
  rw [accesses_store (hop ▸ hrule.listed), operandAccesses_some hm]
  refine .memWrite _ write_not_mem_pointerReads (v := reg s) (g := id) (fun _ _ => rfl) fun m hreads => ?_
  rw [hexec, hrule.rule_eq, effAddr_setMem hreads, hrule.ignores]
  rfl

/-- A read-modify-write, whose result and flags are functions of the byte read and of C. -/
structure IsModify (o : Op) (rule : MemOperand → State → Result) (f : Byte → Bool → Byte)
    (g : Byte → Bool → State → State) : Prop where
  listed : o ∈ modifyOps
  rule_eq : ∀ op u, rule op u = memWrite (effAddr op u) (f (memRead u (effAddr op u)) (u.flag .c)) u
    fun t => .next (g (memRead u (effAddr op u)) (u.flag .c) t)
  ignores : ∀ v c, IgnoresMemory (g v c)

theorem IsModify.isLocal {o : Op} {rule : MemOperand → State → Result} {f : Byte → Bool → Byte}
    {g : Byte → Bool → State → State} (hrule : IsModify o rule f g) (hexec : ∀ u, exec i u = rule op u)
    (hop : i.op = o) (hm : memOperandOf i = some op) : Local i s := by
  unfold Local
  rw [accesses_modify (hop ▸ hrule.listed), operandAccesses_some hm, List.append_cons]
  refine .memWrite _ (by simp [write_not_mem_pointerReads])
    (hrule.ignores (memRead s (effAddr op s)) (s.flag .c))
    (v := f (memRead s (effAddr op s)) (s.flag .c)) fun m hreads => ?_
  have hpointer := fun addr hmem => hreads addr (List.mem_append_left _ hmem)
  rw [hexec, hrule.rule_eq, memRead_effAddr_setMem hreads, effAddr_setMem hpointer]
  rfl

theorem isLoad_lda : IsLoad .lda ruleLda fun v s => setNZ v (s.setA v) :=
  ⟨by decide, fun _ _ => rfl, fun _ _ _ => rfl⟩

theorem isLoad_ldx : IsLoad .ldx ruleLdx fun v s => setNZ v (s.setX v) :=
  ⟨by decide, fun _ _ => rfl, fun _ _ _ => rfl⟩

theorem isLoad_ldy : IsLoad .ldy ruleLdy fun v s => setNZ v (s.setY v) :=
  ⟨by decide, fun _ _ => rfl, fun _ _ _ => rfl⟩

theorem isLoad_and : IsLoad .and ruleAnd fun v s => setNZ (s.a &&& v) (s.setA (s.a &&& v)) :=
  ⟨by decide, fun _ _ => rfl, fun _ _ _ => rfl⟩

theorem isLoad_ora : IsLoad .ora ruleOra fun v s => setNZ (s.a ||| v) (s.setA (s.a ||| v)) :=
  ⟨by decide, fun _ _ => rfl, fun _ _ _ => rfl⟩

theorem isLoad_eor : IsLoad .eor ruleEor fun v s => setNZ (s.a ^^^ v) (s.setA (s.a ^^^ v)) :=
  ⟨by decide, fun _ _ => rfl, fun _ _ _ => rfl⟩

theorem isLoad_cmp : IsLoad .cmp ruleCmp fun v s => compare s.a v s :=
  ⟨by decide, fun _ _ => rfl, fun _ _ _ => rfl⟩

theorem isLoad_cpx : IsLoad .cpx ruleCpx fun v s => compare s.x v s :=
  ⟨by decide, fun _ _ => rfl, fun _ _ _ => rfl⟩

theorem isLoad_cpy : IsLoad .cpy ruleCpy fun v s => compare s.y v s :=
  ⟨by decide, fun _ _ => rfl, fun _ _ _ => rfl⟩

/-- BIT takes a memory operand only; as a rule over a source it loads it. -/
theorem isLoad_bit : IsLoad .bit
    (fun src s => .next (((s.setFlag .z (s.a &&& load src s == 0x00#8)).setFlag .n
      (bit7 (load src s))).setFlag .v ((load src s).getLsbD 6)))
    fun v s => ((s.setFlag .z (s.a &&& v == 0x00#8)).setFlag .n (bit7 v)).setFlag .v (v.getLsbD 6) :=
  ⟨by decide, fun _ _ => rfl, fun _ _ _ => rfl⟩

theorem countDraw_setMem (v : Byte) (s : State) (m : Memory) :
    countDraw v (s.setMem m) = (countDraw v s).setMem m := by
  have hfree : decimalIsFree v (s.setMem m) = decimalIsFree v s := rfl
  rw [countDraw, countDraw, hfree]
  split <;> rfl

theorem isLoad_adc : IsLoad .adc ruleAdc fun v s => ((countDraw v s).setA (adcValue v s).1).setP
    (arithmeticP (adcValue v s).2 ((binAdd s.a v (s.flag .c)).r == 0x00#8) (adcSigns v s).1
      (adcSigns v s).2 s.p) := by
  refine ⟨by decide, fun _ _ => rfl, fun v s m => ?_⟩
  simp only [countDraw_setMem]
  rfl

theorem isLoad_sbc : IsLoad .sbc ruleSbc fun v s => ((countDraw v s).setA (sbcValue v s).1).setP
    (arithmeticP (sbcValue v s).2 ((binSub s.a v (s.flag .c)).r == 0x00#8)
      (bit7 (binSub s.a v (s.flag .c)).r) (binSub s.a v (s.flag .c)).overflow s.p) := by
  refine ⟨by decide, fun _ _ => rfl, fun v s m => ?_⟩
  simp only [countDraw_setMem]
  rfl

theorem isStore_sta : IsStore .sta ruleSta State.a := ⟨by decide, fun _ _ => rfl, fun _ _ => rfl⟩

theorem isStore_stx : IsStore .stx ruleStx State.x := ⟨by decide, fun _ _ => rfl, fun _ _ => rfl⟩

theorem isStore_sty : IsStore .sty ruleSty State.y := ⟨by decide, fun _ _ => rfl, fun _ _ => rfl⟩

/-- A shift or rotate on memory. -/
theorem isModify_shift {o : Op} (f : Byte → Bool → Byte) (out : Byte → Bool) (ho : o ∈ modifyOps) :
    IsModify o (fun op => shift f out (.mem op)) f fun v c t => setNZ (f v c) (t.setFlag .c (out v)) :=
  ⟨ho, fun _ _ => rfl, fun _ _ _ _ => rfl⟩

theorem isModify_modify {o : Op} (f : Byte → Byte) (ho : o ∈ modifyOps) :
    IsModify o (modify f) (fun v _ => f v) fun v _ => setNZ (f v) :=
  ⟨ho, fun _ _ => rfl, fun _ _ _ _ => rfl⟩

theorem exec_local (i : Instr) (s : State) : Local i s := by
  have hasl := isModify_shift (o := .asl) (fun v _ => v <<< 1) bit7 (by decide)
  have hlsr := isModify_shift (o := .lsr) (fun v _ => v >>> 1) bit0 (by decide)
  have hrol := isModify_shift (o := .rol) (fun v c => (v <<< 1) ||| carryByte c) bit7 (by decide)
  have hror := isModify_shift (o := .ror) (fun v c => (v >>> 1) ||| (carryByte c <<< 7)) bit0 (by decide)
  have hinc := isModify_modify (o := .inc) (· + 1) (by decide)
  have hdec := isModify_modify (o := .dec) (· - 1) (by decide)
  cases i
  case ldaImm | ldaZp | ldaZpX | ldaAbs | ldaAbsX | ldaAbsY | ldaIndX | ldaIndY =>
    exact isLoad_lda.isLocal (fun _ => rfl) rfl rfl
  case ldxImm | ldxZp | ldxZpY | ldxAbs | ldxAbsY => exact isLoad_ldx.isLocal (fun _ => rfl) rfl rfl
  case ldyImm | ldyZp | ldyZpX | ldyAbs | ldyAbsX => exact isLoad_ldy.isLocal (fun _ => rfl) rfl rfl
  case adcImm | adcZp | adcZpX | adcAbs | adcAbsX | adcAbsY | adcIndX | adcIndY =>
    exact isLoad_adc.isLocal (fun _ => rfl) rfl rfl
  case sbcImm | sbcZp | sbcZpX | sbcAbs | sbcAbsX | sbcAbsY | sbcIndX | sbcIndY =>
    exact isLoad_sbc.isLocal (fun _ => rfl) rfl rfl
  case andImm | andZp | andZpX | andAbs | andAbsX | andAbsY | andIndX | andIndY =>
    exact isLoad_and.isLocal (fun _ => rfl) rfl rfl
  case oraImm | oraZp | oraZpX | oraAbs | oraAbsX | oraAbsY | oraIndX | oraIndY =>
    exact isLoad_ora.isLocal (fun _ => rfl) rfl rfl
  case eorImm | eorZp | eorZpX | eorAbs | eorAbsX | eorAbsY | eorIndX | eorIndY =>
    exact isLoad_eor.isLocal (fun _ => rfl) rfl rfl
  case cmpImm | cmpZp | cmpZpX | cmpAbs | cmpAbsX | cmpAbsY | cmpIndX | cmpIndY =>
    exact isLoad_cmp.isLocal (fun _ => rfl) rfl rfl
  case cpxImm | cpxZp | cpxAbs => exact isLoad_cpx.isLocal (fun _ => rfl) rfl rfl
  case cpyImm | cpyZp | cpyAbs => exact isLoad_cpy.isLocal (fun _ => rfl) rfl rfl
  case bitZp z => exact isLoad_bit.isLocal (src := .mem (.zeroPage z)) (fun _ => rfl) rfl rfl
  case bitAbs w => exact isLoad_bit.isLocal (src := .mem (.absolute w)) (fun _ => rfl) rfl rfl
  case staZp | staZpX | staAbs | staAbsX | staAbsY | staIndX | staIndY =>
    exact isStore_sta.isLocal (fun _ => rfl) rfl rfl
  case stxZp | stxZpY | stxAbs => exact isStore_stx.isLocal (fun _ => rfl) rfl rfl
  case styZp | styZpX | styAbs => exact isStore_sty.isLocal (fun _ => rfl) rfl rfl
  case aslZp | aslZpX | aslAbs | aslAbsX => exact hasl.isLocal (fun _ => rfl) rfl rfl
  case lsrZp | lsrZpX | lsrAbs | lsrAbsX => exact hlsr.isLocal (fun _ => rfl) rfl rfl
  case rolZp | rolZpX | rolAbs | rolAbsX => exact hrol.isLocal (fun _ => rfl) rfl rfl
  case rorZp | rorZpX | rorAbs | rorAbsX => exact hror.isLocal (fun _ => rfl) rfl rfl
  case incZp | incZpX | incAbs | incAbsX => exact hinc.isLocal (fun _ => rfl) rfl rfl
  case decZp | decZpX | decAbs | decAbsX => exact hdec.isLocal (fun _ => rfl) rfl rfl
  case aslAcc | lsrAcc | rolAcc | rorAcc | tax | tay | txa | tya | inx | dex | iny | dey | tsx | txs | clc
      | sec | cli | sei | cld | sed | clv | nop | jmpAbs =>
    exact .quiet (fun _ => rfl) (fun _ _ => rfl) rfl
  case bpl => exact .branch (cond := fun u => !u.flag .n) (fun _ => rfl) (fun _ => rfl) rfl
  case bmi => exact .branch (cond := fun u => u.flag .n) (fun _ => rfl) (fun _ => rfl) rfl
  case bvc => exact .branch (cond := fun u => !u.flag .v) (fun _ => rfl) (fun _ => rfl) rfl
  case bvs => exact .branch (cond := fun u => u.flag .v) (fun _ => rfl) (fun _ => rfl) rfl
  case bcc => exact .branch (cond := fun u => !u.flag .c) (fun _ => rfl) (fun _ => rfl) rfl
  case bcs => exact .branch (cond := fun u => u.flag .c) (fun _ => rfl) (fun _ => rfl) rfl
  case bne => exact .branch (cond := fun u => !u.flag .z) (fun _ => rfl) (fun _ => rfl) rfl
  case beq => exact .branch (cond := fun u => u.flag .z) (fun _ => rfl) (fun _ => rfl) rfl
  case jmpInd w => exact .jmpInd w s
  case pha =>
    exact .push (vs := fun u => [u.a]) (g := id) (by decide) (by decide) (fun _ => rfl) rfl (fun _ _ => rfl)
      fun _ => rfl
  case php =>
    exact .push (vs := fun u => [pushedP u.p]) (g := id) (by decide) (by decide) (fun _ => rfl) rfl
      (fun _ _ => rfl) fun _ => rfl
  case jsr w =>
    exact .push (vs := fun u => [hiByte (u.pc - 1), loByte (u.pc - 1)]) (g := fun u => u.setPc w)
      (by simp [Instr.op, pushOps]) (by simp [Instr.op]) (fun _ => rfl) rfl (fun _ _ => rfl) fun _ => rfl
  case brk => exact .brk s
  case pla => exact .pull (g := fun v t => setNZ v (t.setA v)) (fun _ _ _ => rfl) rfl fun _ => rfl
  case plp => exact .pull (g := fun v t => t.setP v) (fun _ _ _ => rfl) rfl fun _ => rfl
  case rts => exact .rts s
  case rti => exact .rti s

end Sys2Proof.Machine
end

section
/-! The step depends on the bytes it reads: the instruction's own bytes select the instruction, and its
locality does the rest. -/

namespace Sys2Proof.Machine

variable {i : Instr} {s : State} {m : Memory}

theorem length_le_three (i : Instr) : i.length ≤ 3 := by
  unfold Instr.length
  cases i.mode <;> decide

theorem fetchBytes_eq_map (s : State) :
    fetchBytes s = (List.range 3).map fun k => memRead s (s.pc + BitVec.ofNat 16 k) := by
  simp [fetchBytes, List.range_succ]

/-- A fetch looks at the bytes of the instruction it finds and at no other. -/
theorem fetch_setMem (hfetch : fetch s = some i)
    (h : ∀ addr, .read addr ∈ fetchAccesses i s → m.read addr = s.mem.read addr) :
    fetch (s.setMem m) = some i := by
  obtain ⟨rest, hbytes⟩ := Claims.fetchBytes_of_fetch hfetch
  obtain ⟨hlength, hwf, _⟩ := Laws.Encoding.statement i
  have htake : (fetchBytes (s.setMem m)).take i.length = (fetchBytes s).take i.length := by
    rw [fetchBytes_eq_map, fetchBytes_eq_map, ← List.map_take, ← List.map_take, List.take_range]
    refine List.map_congr_left fun k hk => h _ ?_
    have hk : k < i.length := by
      have := List.mem_range.mp hk
      omega
    exact List.mem_map.mpr ⟨k, List.mem_range.mpr hk, rfl⟩
  have hencode : (fetchBytes (s.setMem m)).take i.length = encode i := by
    rw [htake, hbytes, List.take_left' hlength]
  have hdecode := Claims.decodeInvertsEncode i ((fetchBytes (s.setMem m)).drop i.length) hwf
  rw [← hencode, List.take_append_drop] at hdecode
  exact Claims.fetch_of_decode hdecode

theorem stepAccesses_of_halted {f : Fault} (h : s.fault = some f) : stepAccesses s = [] := by
  simp [stepAccesses, h]

theorem stepAccesses_of_fetch_none (hrun : s.fault = none) (h : fetch s = none) :
    stepAccesses s = [.read s.pc] := by
  simp [stepAccesses, hrun, h]

theorem stepAccesses_of_fetch (hrun : s.fault = none) (h : fetch s = some i) :
    stepAccesses s = fetchAccesses i s ++ accesses i (advance i s) := by
  simp [stepAccesses, hrun, h]

end Sys2Proof.Machine

namespace Sys2Proof.Claims

open Sys2Proof.Machine

/-- Settles O21: a halted step reads nothing, an illegal opcode is the one byte read, and the instruction that
the bytes read select looks only at what it reads. -/
theorem stepDependsOnlyOnTheBytesItReads : Obligations.StepDependsOnlyOnTheBytesItReads := by
  intro s m hreads
  show stepAccesses (s.setMem m) = stepAccesses s ∧ ∀ t, step s = .next t →
    ∃ t', step (s.setMem m) = .next t' ∧ t'.setMem t.mem = t ∧ _
  cases hfault : s.fault with
  | some f =>
    refine ⟨?_, fun t h => by simp [step_halted hfault] at h⟩
    rw [stepAccesses_of_halted hfault, stepAccesses_of_halted (s := s.setMem m) hfault]
  | none =>
    have hrun' : (s.setMem m).fault = none := hfault
    cases hfetch : fetch s with
    | none =>
      rw [stepAccesses_of_fetch_none hfault hfetch] at hreads ⊢
      have hop : m.read s.pc = s.mem.read s.pc := hreads _ (List.mem_singleton.mpr rfl)
      have hfetch' : fetch (s.setMem m) = none :=
        fetch_of_illegal (by simpa [hop] using decodeOpcode_of_fetch_none hfetch)
      refine ⟨stepAccesses_of_fetch_none hrun' hfetch', fun t h => ⟨_, step_of_fetch_none hrun' hfetch', ?_⟩⟩
      rw [step_of_fetch_none hfault hfetch] at h
      cases h
      refine ⟨?_, by simp⟩
      simp only [takeIllegalOpcode, memRead, State.setMem_mem, State.setMem_pc, hop]
      rfl
    | some i =>
      rw [stepAccesses_of_fetch hfault hfetch] at hreads ⊢
      have hfetch' : fetch (s.setMem m) = some i :=
        fetch_setMem hfetch fun addr h => hreads addr (List.mem_append_left _ h)
      have hagree : ∀ addr, .read addr ∈ accesses i (advance i s) → m.read addr = (advance i s).mem.read addr :=
        fun addr h => hreads addr (List.mem_append_right _ h)
      obtain ⟨u, ws, hexec, hws⟩ := exec_local i (advance i s)
      have hstep : step s = .next (u.setMem (s.mem.writes ws)) :=
        (step_of_fetch hfault hfetch).trans (hexec s.mem fun _ _ => rfl)
      have hstep' : step (s.setMem m) = .next (u.setMem (m.writes ws)) :=
        (step_of_fetch hrun' hfetch').trans (hexec m hagree)
      constructor
      · rw [stepAccesses_of_fetch hrun' hfetch']
        exact congrArg (fetchAccesses i s ++ ·) (accesses_setMem hagree)
      · intro t h
        rw [hstep] at h
        cases h
        refine ⟨_, hstep', rfl, fun hs hm addr hwrite => ?_⟩
        have haddr : .write addr ∈ accesses i (advance i s) := by
          simpa [fetchAccesses] using hwrite
        exact Memory.read_writes_eq hs hm (.inl (hws addr haddr))

end Sys2Proof.Claims
end

section
/-! The binary adders as integers (43_arithmetic.md section 1): the overflow formula of the rule compares sign
bits, and signs as integers say whether the exact result is out of range. -/

namespace Sys2Proof.Machine

open Sys2Proof.Claims (signed)

theorem bit7_eq_true_iff_mask (v : Byte) : bit7 v = true ↔ v &&& 0x80#8 ≠ 0 := by
  revert v
  decide

theorem addOverflow_iff_signs (a m r : Byte) :
    addOverflow a m r = true ↔
      (128 ≤ a.toNat ↔ 128 ≤ m.toNat) ∧ ¬(128 ≤ a.toNat ↔ 128 ≤ r.toNat) := by
  have hbits : addOverflow a m r = (!(bit7 a ^^ bit7 m) && (bit7 a ^^ bit7 r)) := by
    simp [addOverflow, bit7]
  rw [hbits, bit7_eq_decide, bit7_eq_decide, bit7_eq_decide]
  by_cases ha : 128 ≤ a.toNat <;> by_cases hm : 128 ≤ m.toNat <;> by_cases hr : 128 ≤ r.toNat <;>
    simp [ha, hm, hr]

theorem subOverflow_eq_addOverflow (a m r : Byte) : subOverflow a m r = addOverflow a (~~~m) r := by
  have hcomplement : ~~~(a ^^^ ~~~m) = a ^^^ m := by
    ext k hk
    simp
  rw [subOverflow, addOverflow, hcomplement]

theorem binAdd_r_toNat (a m : Byte) (c : Bool) :
    (binAdd a m c).r.toNat = (a.toNat + m.toNat + c.toNat) % 256 := by
  simp [binAdd]

theorem binSub_eq_binAdd (a m : Byte) (c : Bool) : binSub a m c = binAdd a (~~~m) c := by
  have ha := a.isLt
  have hm := m.isLt
  have hnot : (~~~m).toNat = 255 - m.toNat := by rw [BitVec.toNat_not]
  have hr : BitVec.ofInt 8 ((a.toNat : Int) - m.toNat - (1 - c.toNat)) =
      BitVec.ofNat 8 (a.toNat + (~~~m).toNat + c.toNat) := by
    apply BitVec.eq_of_toNat_eq
    rw [BitVec.toNat_ofInt, BitVec.toNat_ofNat, hnot]
    cases c <;> simp <;> omega
  have hcarry : decide ((0 : Int) ≤ (a.toNat : Int) - m.toNat - (1 - c.toNat)) =
      decide (255 < a.toNat + (~~~m).toNat + c.toNat) := by
    rw [decide_eq_decide, hnot]
    cases c <;> simp <;> omega
  simp only [binSub, binAdd, hr, hcarry, subOverflow_eq_addOverflow]

/-- The overflow of an addition is the exact signed sum out of range. -/
theorem binAdd_overflow_iff (a m : Byte) (c : Bool) :
    (binAdd a m c).overflow = true ↔
      signed a + signed m + (c.toNat : Int) < -128 ∨ 127 < signed a + signed m + (c.toNat : Int) := by
  have ha := a.isLt
  have hm := m.isLt
  have hc : c.toNat ≤ 1 := c.toNat_le
  show addOverflow a m (binAdd a m c).r = true ↔ _
  rw [addOverflow_iff_signs, binAdd_r_toNat]
  unfold signed
  split <;> split <;> omega

theorem signed_not (m : Byte) : signed (~~~m) = -1 - signed m := by
  have hm := m.isLt
  have hnot : (~~~m).toNat = 255 - m.toNat := by rw [BitVec.toNat_not]
  unfold signed
  rw [hnot]
  split <;> split <;> omega

end Sys2Proof.Machine

namespace Sys2Proof.Claims

open Sys2Proof.Machine

/-- Settles O31. -/
theorem binaryAdditionIsExact : Obligations.BinaryAdditionIsExact := fun a m c =>
  ⟨binAdd_r_toNat a m c, rfl, bit7_eq_true_iff_mask _, binAdd_overflow_iff a m c⟩

/-- Settles O32: each output is that of the addition of the complement, whose number is 255 less the
operand's. -/
theorem binarySubtractionIsExact : Obligations.BinarySubtractionIsExact := by
  intro a m c
  have ha := a.isLt
  have hm := m.isLt
  have hc : c.toNat ≤ 1 := c.toNat_le
  have hnot : (~~~m).toNat = 255 - m.toNat := by rw [BitVec.toNat_not]
  refine ⟨binSub_eq_binAdd a m c, ?r, ?carry, bit7_eq_true_iff_mask _, ?overflow⟩
  case r =>
    rw [binSub_eq_binAdd, binAdd_r_toNat, hnot]
    omega
  case carry =>
    rw [binSub_eq_binAdd, binAdd, decide_eq_decide, hnot]
    omega
  case overflow =>
    rw [binSub_eq_binAdd, binAdd_overflow_iff, signed_not]
    omega

end Sys2Proof.Claims
end

section
/-! The decimal adders on valid BCD bytes (43_arithmetic.md section 2): each digit is corrected into a decimal
digit and a carry or borrow. -/

namespace Sys2Proof.Machine

/-- A corrected digit sum holds the decimal digit in its low nibble and the decimal carry above it. -/
theorem addDigitFix_spec {d : Nat} (h : d ≤ 19) :
    addDigitFix d % 16 = d % 10 ∧ (15 < addDigitFix d ↔ 9 < d) := by
  unfold addDigitFix
  split <;> omega

/-- The correction of one decimal digit of a difference (43_arithmetic.md R553): 6 less when it is negative. -/
def subDigitFix (digit : Int) : Int := if digit < 0 then digit - 6 else digit

/-- A corrected digit difference holds the decimal digit in its low nibble. -/
theorem subDigitFix_emod {d : Int} (hlow : -10 ≤ d) (hhigh : d ≤ 9) : subDigitFix d % 16 = d % 10 := by
  unfold subDigitFix
  split <;> omega

/-- `decSub` by its corrected digits; the borrow of the low digit goes into the high one. -/
theorem decSub_eq {a m : Byte} {c : Bool} {lo hi : Int}
    (hlo : ((a.toNat % 16 : Nat) : Int) - ((m.toNat % 16 : Nat) : Int) - (1 - c.toNat) = lo)
    (hhi : ((a.toNat / 16 : Nat) : Int) - ((m.toNat / 16 : Nat) : Int) = hi) :
    (decSub a m c).1 =
      BitVec.ofInt 8 (subDigitFix (if lo < 0 then hi - 1 else hi) * 16 + subDigitFix lo % 16) := by
  subst hlo hhi
  rfl

theorem validBcd_iff (v : Byte) : validBcd v = true ↔ v.toNat / 16 ≤ 9 ∧ v.toNat % 16 ≤ 9 := by
  simp [validBcd]

theorem packNibbles_mod (x : Nat) {d : Nat} (hd : d < 16) : (x * 16 + d) % 256 = x % 16 * 16 + d := by
  omega

theorem packNibbles_emod (x : Int) {d : Int} (hd : 0 ≤ d) (hd' : d < 16) :
    (x * 16 + d) % 256 = x % 16 * 16 + d := by
  omega

theorem bcd_mod_100_toNat (n : Nat) : (Claims.bcd (n % 100)).toNat = n / 10 % 10 * 16 + n % 10 := by
  have htens : n % 100 / 10 = n / 10 % 10 := by omega
  have hunits : n % 100 % 10 = n % 10 := by omega
  rw [Claims.bcd, BitVec.toNat_ofNat, htens, hunits]
  omega

end Sys2Proof.Machine

namespace Sys2Proof.Claims

open Sys2Proof.Machine

/-- Settles O33: the low digit's decimal carry goes into the high digit, so the corrected digits are those of
the decimal sum. -/
theorem decimalAdditionIsDigitwise : Obligations.DecimalAdditionIsDigitwise := by
  intro a m c ha hm
  obtain ⟨hah, hal⟩ := (validBcd_iff a).mp ha
  obtain ⟨hmh, hml⟩ := (validBcd_iff m).mp hm
  have hc : c.toNat ≤ 1 := c.toNat_le
  obtain ⟨hlow, hlowCarry⟩ := addDigitFix_spec (d := a.toNat % 16 + m.toNat % 16 + c.toNat) (by omega)
  have hunits : (a.toNat % 16 + m.toNat % 16 + c.toNat) % 10 = (dec a + dec m + c.toNat) % 10 := by
    unfold dec
    omega
  have htens : a.toNat / 16 + m.toNat / 16 +
      (if 15 < addDigitFix (a.toNat % 16 + m.toNat % 16 + c.toNat) then 1 else 0) =
      (dec a + dec m + c.toNat) / 10 := by
    unfold dec
    split <;> omega
  have hbound : (dec a + dec m + c.toNat) / 10 ≤ 19 := by
    unfold dec
    omega
  obtain ⟨hhigh, hcarry⟩ := addDigitFix_spec hbound
  simp only [decAdd, htens]
  constructor
  · apply BitVec.eq_of_toNat_eq
    rw [bcd_mod_100_toNat, BitVec.toNat_ofNat, packNibbles_mod _ (Nat.mod_lt _ (by decide)), hhigh, hlow, hunits]
  · rw [decide_eq_decide, hcarry]
    generalize dec a + dec m + c.toNat = n
    omega

/-- Settles O34: the low digit's decimal borrow goes into the high digit, so the corrected digits are those of
the decimal difference; on valid BCD bytes the binary and the decimal order are the same. -/
theorem decimalSubtractionIsDigitwise : Obligations.DecimalSubtractionIsDigitwise := by
  intro a m c ha hm
  obtain ⟨hah, hal⟩ := (validBcd_iff a).mp ha
  obtain ⟨hmh, hml⟩ := (validBcd_iff m).mp hm
  have hc : c.toNat ≤ 1 := c.toNat_le
  generalize hlo : ((a.toNat % 16 : Nat) : Int) - ((m.toNat % 16 : Nat) : Int) - (1 - c.toNat) = lo
  generalize hhi : ((a.toNat / 16 : Nat) : Int) - ((m.toNat / 16 : Nat) : Int) = hi
  generalize hn : dec a + 100 - dec m - (1 - c.toNat) = n
  have hdiff : (n : Int) = hi * 10 + lo + 100 := by
    rw [← hn, ← hlo, ← hhi]
    unfold dec
    omega
  constructor
  · have hunits : subDigitFix lo % 16 = (n % 10 : Nat) := by
      rw [subDigitFix_emod (by omega) (by omega)]
      omega
    have htens : subDigitFix (if lo < 0 then hi - 1 else hi) % 16 = (n / 10 % 10 : Nat) := by
      rw [subDigitFix_emod (by split <;> omega) (by split <;> omega)]
      split <;> omega
    apply BitVec.eq_of_toNat_eq
    rw [decSub_eq hlo hhi, bcd_mod_100_toNat, BitVec.toNat_ofInt, hunits]
    have hpack := packNibbles_emod (subDigitFix (if lo < 0 then hi - 1 else hi)) (d := (n % 10 : Nat))
      (by omega) (by omega)
    rw [htens] at hpack
    omega
  · show decide _ = decide _
    rw [decide_eq_decide]
    unfold dec
    omega

end Sys2Proof.Claims
end

section
/-! ADC and SBC (43_arithmetic.md R554 to R558): the four flags of the result and the two cases in which the
spec fixes A and C. -/

namespace Sys2Proof.Machine

theorem flag_setP_arithmeticP (c z n v : Bool) (p : Byte) (u : State) (f : Flag) :
    (u.setP (arithmeticP c z n v p)).flag f =
      if f = .v then v else if f = .n then n else if f = .z then z else if f = .c then c
      else getFlag p f := by
  simp [State.flag, arithmeticP, getFlag_putFlag]

theorem decimalIsFree_of_binary {m : Byte} {s : State} (h : s.flag .d = false) :
    decimalIsFree m s = false := by
  simp [decimalIsFree, h]

theorem countDraw_of_not_free {m : Byte} {s : State} (h : decimalIsFree m s = false) : countDraw m s = s := by
  simp [countDraw, h]

end Sys2Proof.Machine

namespace Sys2Proof.Claims

open Sys2Proof.Machine

theorem decimalIsFree_of_fixed {m : Byte} {s : State} (h : DecimalIsFixed m s) : decimalIsFree m s = false := by
  rcases h with hcfg | ⟨ha, hm⟩
  · simp [decimalIsFree, hcfg]
  · simp [decimalIsFree, ha, hm]

/-- The state that ADC and SBC leave, from the values their rules compute. -/
def arithmeticResult (m value : Byte) (c z n v : Bool) (s : State) : State :=
  ((countDraw m s).setA value).setP (arithmeticP c z n v s.p)

theorem arithmeticFrame_result (m value : Byte) (c z n v : Bool) (s : State) :
    ArithmeticFrame s (arithmeticResult m value c z n v s) := by
  constructor
  · unfold arithmeticResult
    rw [countDraw_eq]
    rfl
  · intro f hf
    obtain ⟨hc, hz, hn, hv⟩ : f ≠ .c ∧ f ≠ .z ∧ f ≠ .n ∧ f ≠ .v := by simpa using hf
    rw [arithmeticResult, flag_setP_arithmeticP, if_neg hv, if_neg hn, if_neg hz, if_neg hc, State.flag]

theorem arithmeticResult_draws {m : Byte} {s : State} (h : decimalIsFree m s = false) (value : Byte)
    (c z n v : Bool) : (arithmeticResult m value c z n v s).draws = s.draws := by
  rw [arithmeticResult, countDraw_of_not_free h]
  rfl

/-- ADC on any operand. -/
theorem ruleAdc_adds : ReadingRule ruleAdc Adds := by
  intro src s
  generalize hm : load src s = m
  refine ⟨arithmeticResult m (adcValue m s).1 (adcValue m s).2 ((binAdd s.a m (s.flag .c)).r == 0x00#8)
    (adcSigns m s).1 (adcSigns m s).2 s, by rw [← hm]; rfl, arithmeticFrame_result .., ?z, ?binary, ?decimal,
    ?signs, ?nmos⟩
  case z => simp [arithmeticResult, flag_setP_arithmeticP, beq_zero_eq_decide]
  case binary =>
    intro hd
    have hfree := decimalIsFree_of_binary (m := m) hd
    exact ⟨by simp [arithmeticResult, adcValue, hfree, hd],
      by simp [arithmeticResult, flag_setP_arithmeticP, adcValue, hfree, hd], arithmeticResult_draws hfree ..⟩
  case decimal =>
    intro hd hfixed
    have hfree := decimalIsFree_of_fixed hfixed
    exact ⟨by simp [arithmeticResult, adcValue, hfree, hd],
      by simp [arithmeticResult, flag_setP_arithmeticP, adcValue, hfree, hd], arithmeticResult_draws hfree ..⟩
  case signs =>
    intro hbinary
    have hsigns : adcSigns m s = (bit7 (binAdd s.a m (s.flag .c)).r, (binAdd s.a m (s.flag .c)).overflow) := by
      rw [adcSigns, if_neg (by simpa using hbinary)]
    simp [arithmeticResult, flag_setP_arithmeticP, hsigns, bit7_eq_decide]
  case nmos =>
    intro hnmos
    have hsigns : adcSigns m s =
        (bit7 (decAdd s.a m (s.flag .c)).t, addOverflow s.a m (decAdd s.a m (s.flag .c)).t) := by
      rw [adcSigns, if_pos (by simpa using hnmos)]
    simp [arithmeticResult, flag_setP_arithmeticP, hsigns, bit7_eq_decide, addOverflow_iff_signs]

/-- SBC on any operand. -/
theorem ruleSbc_subtracts : ReadingRule ruleSbc Subtracts := by
  intro src s
  generalize hm : load src s = m
  refine ⟨arithmeticResult m (sbcValue m s).1 (sbcValue m s).2 ((binSub s.a m (s.flag .c)).r == 0x00#8)
    (bit7 (binSub s.a m (s.flag .c)).r) (binSub s.a m (s.flag .c)).overflow s, by rw [← hm]; rfl,
    arithmeticFrame_result .., ?z, ?n, ?v, ?binary, ?decimal⟩
  case z => simp [arithmeticResult, flag_setP_arithmeticP, beq_zero_eq_decide]
  case n => simp [arithmeticResult, flag_setP_arithmeticP, bit7_eq_decide]
  case v => simp [arithmeticResult, flag_setP_arithmeticP]
  case binary =>
    intro hd
    have hfree := decimalIsFree_of_binary (m := m) hd
    exact ⟨by simp [arithmeticResult, sbcValue, hfree, hd],
      by simp [arithmeticResult, flag_setP_arithmeticP, sbcValue, hfree, hd], arithmeticResult_draws hfree ..⟩
  case decimal =>
    intro hd hfixed
    have hfree := decimalIsFree_of_fixed hfixed
    exact ⟨by simp [arithmeticResult, sbcValue, hfree, hd],
      by simp [arithmeticResult, flag_setP_arithmeticP, sbcValue, decSub, hfree, hd],
      arithmeticResult_draws hfree ..⟩

/-- Settles O35: every form of ADC runs `ruleAdc` on its operand. -/
theorem adcAddsInBothModes : Obligations.AdcAddsInBothModes := by
  unfold Obligations.AdcAddsInBothModes
  exact ⟨
    ruleAdc_adds.immediate rfl fun _ _ => rfl,
    ruleAdc_adds.readsByte rfl fun _ _ => rfl,
    ruleAdc_adds.readsByte rfl fun _ _ => rfl,
    ruleAdc_adds.readsWord rfl fun _ _ => rfl,
    ruleAdc_adds.readsWord rfl fun _ _ => rfl,
    ruleAdc_adds.readsWord rfl fun _ _ => rfl,
    ruleAdc_adds.readsByte rfl fun _ _ => rfl,
    ruleAdc_adds.readsByte rfl fun _ _ => rfl⟩

/-- Settles O36: every form of SBC runs `ruleSbc` on its operand. -/
theorem sbcSubtractsInBothModes : Obligations.SbcSubtractsInBothModes := by
  unfold Obligations.SbcSubtractsInBothModes
  exact ⟨
    ruleSbc_subtracts.immediate rfl fun _ _ => rfl,
    ruleSbc_subtracts.readsByte rfl fun _ _ => rfl,
    ruleSbc_subtracts.readsByte rfl fun _ _ => rfl,
    ruleSbc_subtracts.readsWord rfl fun _ _ => rfl,
    ruleSbc_subtracts.readsWord rfl fun _ _ => rfl,
    ruleSbc_subtracts.readsWord rfl fun _ _ => rfl,
    ruleSbc_subtracts.readsByte rfl fun _ _ => rfl,
    ruleSbc_subtracts.readsByte rfl fun _ _ => rfl⟩

end Sys2Proof.Claims
end

section
/-! What the instructions that write one byte of memory share: below `ROM_START` the byte is written and the
rest of the rule runs, at or above it the fault ends the instruction (20_memory.md R202). -/

namespace Sys2Proof.Claims

open Sys2Proof.Machine

theorem memWrite_writesTo {addr : Addr} {v : Byte} {s u : State} {rest : Rest} (ok : State → Prop)
    (hrest : rest (stored addr v s) = .next u) (hok : ok u) :
    ∃ t, memWrite addr v s rest = .next t ∧ WritesTo addr (ok t) s t := by
  by_cases hwritable : Writable s addr
  · have hrom := inRom_eq_false_of_writable hwritable
    exact ⟨u, (memWrite_ok addr v hrom).trans hrest, fun _ => hok, fun h => absurd hwritable h⟩
  · have hrom := inRom_iff_not_writable.mpr hwritable
    exact ⟨_, memWrite_rom addr v hrom, fun h => absurd h hwritable, fun _ => rfl⟩

/-- From every state the rule answers a next state, with an effect at the address of its operand. -/
def WritingRule (rule : MemOperand → State → Result) (effect : Addr → State → State → Prop) : Prop :=
  ∀ opnd s, ∃ t, rule opnd s = .next t ∧ effect (effAddr opnd s) s t

namespace WritingRule

variable {rule : MemOperand → State → Result} {effect : Addr → State → State → Prop} {op : Byte}

theorem atByte {mk : Byte → Instr} {mode : Byte → MemOperand} (hrule : WritingRule rule effect)
    (hshape : shapeOf op = some (.two mk)) (hexec : ∀ z s, exec (mk z) s = rule (mode z) s) :
    AtByte op mk mode effect := by
  intro z
  refine ⟨decodes_two hshape z, fun s => ?_⟩
  rw [hexec]
  exact hrule (mode z) s

theorem atWord {mk : Addr → Instr} {mode : Addr → MemOperand} (hrule : WritingRule rule effect)
    (hshape : shapeOf op = some (.three mk)) (hexec : ∀ w s, exec (mk w) s = rule (mode w) s) :
    AtWord op mk mode effect := by
  intro w
  refine ⟨decodes_three hshape w, fun s => ?_⟩
  rw [hexec]
  exact hrule (mode w) s

end WritingRule

theorem ruleSta_storesA : WritingRule ruleSta (Stores State.a) :=
  fun opnd s => memWrite_writesTo (· = stored (effAddr opnd s) s.a s) rfl rfl

theorem ruleStx_storesX : WritingRule ruleStx (Stores State.x) :=
  fun opnd s => memWrite_writesTo (· = stored (effAddr opnd s) s.x s) rfl rfl

theorem ruleSty_storesY : WritingRule ruleSty (Stores State.y) :=
  fun opnd s => memWrite_writesTo (· = stored (effAddr opnd s) s.y s) rfl rfl

/-- Settles O29: every form of a store runs its rule on its operand. -/
theorem storesWriteTheRegisterBelowRom : Obligations.StoresWriteTheRegisterBelowRom := by
  unfold Obligations.StoresWriteTheRegisterBelowRom
  exact ⟨
    ruleSta_storesA.atByte rfl fun _ _ => rfl,
    ruleSta_storesA.atByte rfl fun _ _ => rfl,
    ruleSta_storesA.atWord rfl fun _ _ => rfl,
    ruleSta_storesA.atWord rfl fun _ _ => rfl,
    ruleSta_storesA.atWord rfl fun _ _ => rfl,
    ruleSta_storesA.atByte rfl fun _ _ => rfl,
    ruleSta_storesA.atByte rfl fun _ _ => rfl,
    ruleStx_storesX.atByte rfl fun _ _ => rfl,
    ruleStx_storesX.atByte rfl fun _ _ => rfl,
    ruleStx_storesX.atWord rfl fun _ _ => rfl,
    ruleSty_storesY.atByte rfl fun _ _ => rfl,
    ruleSty_storesY.atByte rfl fun _ _ => rfl,
    ruleSty_storesY.atWord rfl fun _ _ => rfl⟩

/-- Settles O30: a transfer is a load of the target register; TXS only moves S. -/
theorem transfersCopyARegister : Obligations.TransfersCopyARegister := by
  unfold Obligations.TransfersCopyARegister
  exact ⟨
    ⟨decodes_one rfl, fun s => ⟨_, rfl, loadsX_setNZ s.a s⟩⟩,
    ⟨decodes_one rfl, fun s => ⟨_, rfl, loadsY_setNZ s.a s⟩⟩,
    ⟨decodes_one rfl, fun s => ⟨_, rfl, loadsA_setNZ s.x s⟩⟩,
    ⟨decodes_one rfl, fun s => ⟨_, rfl, loadsA_setNZ s.y s⟩⟩,
    ⟨decodes_one rfl, fun s => ⟨_, rfl, loadsX_setNZ s.sp s⟩⟩,
    ⟨decodes_one rfl, fun _ => ⟨_, rfl, rfl⟩⟩⟩

end Sys2Proof.Claims
end

section
/-! The shifts and rotates (45_shift_rotate.md R650 to R654) and INC and DEC (46_compare_incdec.md R704, R705):
each computes a byte that is a number modulo 256. -/

namespace Sys2Proof.Machine

theorem shiftLeft_one_eq_ofNat (v : Byte) : v <<< 1 = BitVec.ofNat 8 (2 * v.toNat) := by
  apply BitVec.eq_of_toNat_eq
  rw [BitVec.toNat_shiftLeft, Nat.shiftLeft_eq, BitVec.toNat_ofNat, Nat.mul_comm, Nat.pow_one]

theorem shiftRight_one_eq_ofNat (v : Byte) : v >>> 1 = BitVec.ofNat 8 (v.toNat / 2) := by
  apply BitVec.eq_of_toNat_eq
  rw [BitVec.toNat_ushiftRight, Nat.shiftRight_eq_div_pow, BitVec.toNat_ofNat]
  omega

theorem rotateLeft_eq_ofNat (v : Byte) (c : Bool) :
    (v <<< 1) ||| carryByte c = BitVec.ofNat 8 (2 * v.toNat + c.toNat) := by
  have hdisjoint : (v <<< 1) &&& carryByte c = 0#8 := by
    ext i hi
    cases c <;> simp [carryByte, BitVec.getElem_one]
    omega
  have hcarry : carryByte c = BitVec.ofNat 8 c.toNat := by cases c <;> rfl
  rw [← BitVec.add_eq_or_of_and_eq_zero _ _ hdisjoint, shiftLeft_one_eq_ofNat, hcarry, BitVec.ofNat_add]

theorem rotateRight_eq_ofNat (v : Byte) (c : Bool) :
    (v >>> 1) ||| (carryByte c <<< 7) = BitVec.ofNat 8 (v.toNat / 2 + 128 * c.toNat) := by
  have hcarry : carryByte c <<< 7 = BitVec.ofNat 8 (128 * c.toNat) := by cases c <;> rfl
  have hdisjoint : (v >>> 1) &&& (carryByte c <<< 7) = 0#8 := by
    ext i hi
    by_cases hlow : i < 7
    · simp [hlow]
    · obtain rfl : i = 7 := by omega
      simp
  rw [← BitVec.add_eq_or_of_and_eq_zero _ _ hdisjoint, shiftRight_one_eq_ofNat, hcarry, BitVec.ofNat_add]

theorem bit0_eq_decide (v : Byte) : bit0 v = decide (v.toNat % 2 = 1) := by
  rw [bit0, BitVec.getLsbD, Nat.testBit_zero]

end Sys2Proof.Machine

namespace Sys2Proof.Claims

open Sys2Proof.Machine

theorem nzFrom_setNZ_setFlag_c (v : Byte) (b : Bool) {s u : State} (hp : u.p = s.p) :
    NZFrom v [.c] s (setNZ v (u.setFlag .c b)) := by
  obtain ⟨hn, hz, -⟩ := nzFrom_setNZ v (s := u.setFlag .c b) rfl
  refine ⟨hn, hz, fun f hfn hfz hfc => ?_⟩
  have hc : f ≠ .c := by simpa using hfc
  rw [flag_setNZ, if_neg hfz, if_neg hfn, State.flag_setFlag, if_neg hc, State.flag, hp, State.flag]

theorem nzFrom_mono {v : Byte} {s t : State} (others : List Flag) (h : NZFrom v [] s t) :
    NZFrom v others s t := by
  obtain ⟨hn, hz, hothers⟩ := h
  exact ⟨hn, hz, fun f hfn hfz _ => hothers f hfn hfz (by simp)⟩

theorem flag_c_setNZ (v : Byte) (u : State) : (setNZ v u).flag .c = u.flag .c := by
  simp [flag_setNZ]

/-- A byte of memory has a new value, N and Z come from it, and C is given. -/
def Rewritten (ea : Addr) (r : Byte) (c : Bool) (s t : State) : Prop :=
  t = { stored ea r s with p := t.p } ∧ NZFrom r [.c] s t ∧ t.flag .c = c

theorem memWrite_rewrites {ea : Addr} {r : Byte} {c : Bool} {s : State} (after : State → State)
    (h : Rewritten ea r c s (after (stored ea r s))) :
    ∃ t, memWrite ea r s (fun u => .next (after u)) = .next t ∧
      WritesTo ea (Rewritten ea r c s t) s t :=
  memWrite_writesTo (Rewritten ea r c s) rfl h

/-- A shift or rotate said in integers: its byte modulo 256, and the bit it moves into C. -/
structure ShiftsAs (f : Byte → Bool → Byte) (out : Byte → Bool) (result : Nat → Nat → Nat)
    (carry : Nat → Bool) : Prop where
  value : ∀ v c, f v c = BitVec.ofNat 8 (result v.toNat c.toNat)
  bit : ∀ v, out v = carry v.toNat

namespace ShiftsAs
section
variable {f : Byte → Bool → Byte} {out : Byte → Bool} {result : Nat → Nat → Nat} {carry : Nat → Bool}

theorem modifies (h : ShiftsAs f out result carry) :
    WritingRule (fun opnd => shift f out (.mem opnd)) (Modifies result (some carry)) := by
  intro opnd s
  generalize hea : effAddr opnd s = ea
  generalize hv : s.mem.read ea = v
  have hexec : shift f out (.mem opnd) s =
      memWrite ea (f v (s.flag .c)) s fun u => .next (setNZ (f v (s.flag .c)) (u.setFlag .c (out v))) := by
    rw [← hv, ← hea]
    rfl
  have hmod : Modifies result (some carry) ea s =
      fun t => WritesTo ea (Rewritten ea (f v (s.flag .c)) (out v) s t) s t := by
    rw [h.value, h.bit, ← hv]
    rfl
  simp only [hexec, hmod]
  exact memWrite_rewrites _
    ⟨rfl, nzFrom_setNZ_setFlag_c _ _ rfl, by rw [flag_c_setNZ, State.flag_setFlag, if_pos rfl]⟩

theorem modifiesA (h : ShiftsAs f out result carry) (s : State) :
    ∃ t, shift f out .acc s = .next t ∧ ModifiesA result carry s t := by
  have hp : (s.setA (f s.a (s.flag .c))).p = s.p := rfl
  have hnz := nzFrom_setNZ_setFlag_c (f s.a (s.flag .c)) (out s.a) hp
  refine ⟨_, rfl, ?frame, ?nz, ?c⟩
  case frame =>
    rw [← h.value]
    rfl
  case nz =>
    rw [← h.value]
    exact hnz
  case c =>
    rw [← h.bit, flag_c_setNZ, State.flag_setFlag, if_pos rfl]
    rfl

end
end ShiftsAs

theorem modify_modifies {f : Byte → Byte} {result : Nat → Nat}
    (hf : ∀ v, f v = BitVec.ofNat 8 (result v.toNat)) :
    WritingRule (modify f) (Modifies (fun v _ => result v) none) := by
  intro opnd s
  generalize hea : effAddr opnd s = ea
  generalize hv : s.mem.read ea = v
  have hexec : modify f opnd s = memWrite ea (f v) s fun u => .next (setNZ (f v) u) := by
    rw [← hv, ← hea]
    rfl
  have hmod : Modifies (fun v _ => result v) none ea s =
      fun t => WritesTo ea (Rewritten ea (f v) (s.flag .c) s t) s t := by
    rw [hf, ← hv]
    rfl
  simp only [hexec, hmod]
  exact memWrite_rewrites _ ⟨rfl, nzFrom_mono _ (nzFrom_setNZ _ rfl), flag_c_setNZ _ _⟩

theorem asl_shiftsAs :
    ShiftsAs (fun v _ => v <<< 1) bit7 (fun v _ => 2 * v) fun v => decide (128 ≤ v) :=
  ⟨fun v _ => shiftLeft_one_eq_ofNat v, bit7_eq_decide⟩

theorem rol_shiftsAs :
    ShiftsAs (fun v c => (v <<< 1) ||| carryByte c) bit7 (fun v c => 2 * v + c) fun v => decide (128 ≤ v) :=
  ⟨rotateLeft_eq_ofNat, bit7_eq_decide⟩

theorem lsr_shiftsAs :
    ShiftsAs (fun v _ => v >>> 1) bit0 (fun v _ => v / 2) fun v => decide (v % 2 = 1) :=
  ⟨fun v _ => shiftRight_one_eq_ofNat v, bit0_eq_decide⟩

theorem ror_shiftsAs :
    ShiftsAs (fun v c => (v >>> 1) ||| (carryByte c <<< 7)) bit0 (fun v c => v / 2 + 128 * c)
      fun v => decide (v % 2 = 1) :=
  ⟨rotateRight_eq_ofNat, bit0_eq_decide⟩

/-- Settles O39: the accumulator form and every memory form of ASL and ROL runs its rule. -/
theorem leftShiftsMoveBit7ToCarry : Obligations.LeftShiftsMoveBit7ToCarry := by
  unfold Obligations.LeftShiftsMoveBit7ToCarry
  exact ⟨
    ⟨decodes_one rfl, asl_shiftsAs.modifiesA⟩,
    asl_shiftsAs.modifies.atByte rfl fun _ _ => rfl,
    asl_shiftsAs.modifies.atByte rfl fun _ _ => rfl,
    asl_shiftsAs.modifies.atWord rfl fun _ _ => rfl,
    asl_shiftsAs.modifies.atWord rfl fun _ _ => rfl,
    ⟨decodes_one rfl, rol_shiftsAs.modifiesA⟩,
    rol_shiftsAs.modifies.atByte rfl fun _ _ => rfl,
    rol_shiftsAs.modifies.atByte rfl fun _ _ => rfl,
    rol_shiftsAs.modifies.atWord rfl fun _ _ => rfl,
    rol_shiftsAs.modifies.atWord rfl fun _ _ => rfl⟩

/-- Settles O40: the accumulator form and every memory form of LSR and ROR runs its rule. -/
theorem rightShiftsMoveBit0ToCarry : Obligations.RightShiftsMoveBit0ToCarry := by
  unfold Obligations.RightShiftsMoveBit0ToCarry
  exact ⟨
    ⟨decodes_one rfl, lsr_shiftsAs.modifiesA⟩,
    lsr_shiftsAs.modifies.atByte rfl fun _ _ => rfl,
    lsr_shiftsAs.modifies.atByte rfl fun _ _ => rfl,
    lsr_shiftsAs.modifies.atWord rfl fun _ _ => rfl,
    lsr_shiftsAs.modifies.atWord rfl fun _ _ => rfl,
    ⟨decodes_one rfl, ror_shiftsAs.modifiesA⟩,
    ror_shiftsAs.modifies.atByte rfl fun _ _ => rfl,
    ror_shiftsAs.modifies.atByte rfl fun _ _ => rfl,
    ror_shiftsAs.modifies.atWord rfl fun _ _ => rfl,
    ror_shiftsAs.modifies.atWord rfl fun _ _ => rfl⟩

theorem ruleInc_modifies : WritingRule ruleInc (Modifies (fun v _ => v + 1) none) :=
  modify_modifies (f := (· + 1)) (result := (· + 1)) add_one_eq_ofNat

theorem ruleDec_modifies : WritingRule ruleDec (Modifies (fun v _ => v + 255) none) :=
  modify_modifies (f := (· - 1)) (result := (· + 255)) sub_one_eq_ofNat

/-- Settles O42: every form of INC and DEC runs its rule on its operand; DEC adds 255. -/
theorem incAndDecModifyMemory : Obligations.IncAndDecModifyMemory := by
  unfold Obligations.IncAndDecModifyMemory
  exact ⟨
    ruleInc_modifies.atByte rfl fun _ _ => rfl,
    ruleInc_modifies.atByte rfl fun _ _ => rfl,
    ruleInc_modifies.atWord rfl fun _ _ => rfl,
    ruleInc_modifies.atWord rfl fun _ _ => rfl,
    ruleDec_modifies.atByte rfl fun _ _ => rfl,
    ruleDec_modifies.atByte rfl fun _ _ => rfl,
    ruleDec_modifies.atWord rfl fun _ _ => rfl,
    ruleDec_modifies.atWord rfl fun _ _ => rfl⟩

end Sys2Proof.Claims
end

section
/-! The stack operations said by `RoomToPush`, `RoomToPull` and `Writable` (40_sequencer.md R420 to R422), for
one push or pull and for the ones after it. -/

namespace Sys2Proof.Machine

theorem ofNat_high_eq_hiByte (w : Addr) : BitVec.ofNat 8 (w.toNat / 256) = hiByte w := by
  rw [← hiByte_toNat, BitVec.ofNat_toNat, BitVec.setWidth_eq]

theorem ofNat_low_eq_loByte (w : Addr) : BitVec.ofNat 8 (w.toNat % 256) = loByte w := by
  rw [← loByte_toNat, BitVec.ofNat_toNat, BitVec.setWidth_eq]

end Sys2Proof.Machine

namespace Sys2Proof.Claims

open Sys2Proof.Machine

theorem RoomToPush.mono {m n : Nat} {s : State} (h : RoomToPush n s) (hle : m ≤ n) : RoomToPush m s :=
  h.imp_right hle.trans

theorem RoomToPull.mono {m n : Nat} {s : State} (h : RoomToPull n s) (hle : m ≤ n) : RoomToPull m s :=
  h.imp_right fun hroom => by omega

theorem roomToPush_one_iff {s : State} : RoomToPush 1 s ↔ pushOverflows s = false := by
  have hempty : ¬s.sp = 0x00#8 ↔ 1 ≤ s.sp.toNat := by bv_omega
  rw [← Bool.not_eq_true, pushOverflows_iff, not_and_or, hempty, Bool.not_eq_false, RoomToPush]

theorem roomToPull_one_iff {s : State} : RoomToPull 1 s ↔ pullUnderflows s = false := by
  have hfull : ¬s.sp = 0xFF#8 ↔ s.sp.toNat + 1 ≤ 255 := by bv_omega
  rw [← Bool.not_eq_true, pullUnderflows_iff, not_and_or, hfull, Bool.not_eq_false, RoomToPull]

theorem roomToPush_pushed {n : Nat} {s : State} (v : Byte) (h : RoomToPush 1 s) :
    RoomToPush n (pushed v s) ↔ RoomToPush (n + 1) s := by
  unfold RoomToPush at *
  show s.cfg.stackWrap = true ∨ n ≤ (s.sp - 1).toNat ↔ _
  rcases h with hwrap | hroom
  · simp [hwrap]
  · have hsub : (s.sp - 1).toNat = s.sp.toNat - 1 := by bv_omega
    rw [hsub]
    exact or_congr_right (by omega)

theorem roomToPull_next {n : Nat} {s : State} (h : RoomToPull 1 s) :
    RoomToPull n (s.setSp (s.sp + 1)) ↔ RoomToPull (n + 1) s := by
  unfold RoomToPull at *
  show s.cfg.stackWrap = true ∨ (s.sp + 1).toNat + n ≤ 255 ↔ _
  rcases h with hwrap | hroom
  · simp [hwrap]
  · have hadd : (s.sp + 1).toNat = s.sp.toNat + 1 := by bv_omega
    rw [hadd]
    exact or_congr_right (by omega)

section
variable {s : State} {v : Byte} {rest : Rest}

theorem pushFault_of_room (hroom : RoomToPush 1 s) (hwritable : Writable s (stackByte s.sp)) :
    pushFault s = none := by
  rw [stackByte_eq_stackAddr] at hwritable
  exact pushFault_eq_none_iff.mpr ⟨roomToPush_one_iff.mp hroom, inRom_eq_false_of_writable hwritable⟩

theorem push_of_room (hroom : RoomToPush 1 s) (hwritable : Writable s (stackByte s.sp)) :
    push v s rest = rest (pushed v s) :=
  push_of_no_fault v rest (pushFault_of_room hroom hwritable)

theorem push_of_no_room (hroom : ¬RoomToPush 1 s) : push v s rest = .next (halted .stackOverflow s) := by
  rw [roomToPush_one_iff, Bool.not_eq_false] at hroom
  exact push_overflow v hroom

theorem push_of_rom (hroom : RoomToPush 1 s) (hrom : ¬Writable s (stackByte s.sp)) :
    push v s rest = .next (halted (.romViolation (stackByte s.sp)) s) := by
  rw [stackByte_eq_stackAddr, ← inRom_iff_not_writable] at hrom
  have hfault : pushFault s = some (.romViolation (stackAddr s.sp)) := by
    simp [pushFault, roomToPush_one_iff.mp hroom, hrom]
  rw [stackByte_eq_stackAddr]
  exact push_of_fault v rest hfault

theorem pull_of_room {k : Byte → Rest} (hroom : RoomToPull 1 s) :
    pull s k = k (s.mem.read (stackByte (s.sp + 1))) (s.setSp (s.sp + 1)) := by
  rw [stackByte_eq_stackAddr]
  exact pull_ok (roomToPull_one_iff.mp hroom)

theorem pull_of_no_room {k : Byte → Rest} (hroom : ¬RoomToPull 1 s) :
    pull s k = .next (halted .stackUnderflow s) := by
  rw [roomToPull_one_iff, Bool.not_eq_false] at hroom
  exact pull_underflow hroom

end

/-- Settles O52: one push, with nothing after it. -/
theorem phaAndPhpPushOneByte : Obligations.PhaAndPhpPushOneByte := by
  unfold Obligations.PhaAndPhpPushOneByte
  exact ⟨decodes_one rfl, decodes_one rfl, fun s => ⟨
    fun hroom hwritable => ⟨push_of_room hroom hwritable, push_of_room hroom hwritable⟩,
    fun hroom => ⟨push_of_no_room hroom, push_of_no_room hroom⟩,
    fun hroom hrom => ⟨push_of_rom hroom hrom, push_of_rom hroom hrom⟩⟩⟩

/-- Settles O53: one pull; PLA sets N and Z as a load of A does. -/
theorem plaAndPlpPullOneByte : Obligations.PlaAndPlpPullOneByte := by
  unfold Obligations.PlaAndPlpPullOneByte
  refine ⟨decodes_one rfl, decodes_one rfl, fun s => ?_⟩
  have hpla : exec .pla s = pull s fun v t => .next (setNZ v (t.setA v)) := rfl
  have hplp : exec .plp s = pull s fun v t => .next (t.setP v) := rfl
  rw [hpla, hplp]
  refine ⟨fun hroom => ?completes, fun hroom => ⟨pull_of_no_room hroom, pull_of_no_room hroom⟩⟩
  case completes =>
    rw [pull_of_room hroom, pull_of_room hroom]
    exact ⟨⟨_, rfl, rfl, nzFrom_setNZ _ rfl⟩, rfl⟩

end Sys2Proof.Claims
end

section
/-! JSR and BRK push several bytes, RTS and RTI pull several (47_branch_jump.md R761 to R763, 49_control.md
R850): at each byte the instruction goes on or ends with the fault of that byte. -/

namespace Sys2Proof.Claims

open Sys2Proof.Machine

theorem exec_jsr (w : Addr) (s : State) :
    exec (.jsr w) s =
      push (hiByte (s.pc - 1)) s fun t => push (loByte (s.pc - 1)) t fun u => .next (u.setPc w) := rfl

theorem exec_rts (s : State) :
    exec .rts s = pull s fun lo t => pull t fun hi u => .next (u.setPc (wordOf hi lo + 1)) := rfl

theorem exec_rti (s : State) :
    exec .rti s = pull s fun p t =>
      pull (t.setP p) fun lo u => pull u fun hi v => .next (v.setPc (wordOf hi lo)) := rfl

theorem exec_brk (s : State) :
    exec .brk s = push (hiByte (s.pc + 1)) s fun t => push (loByte (s.pc + 1)) t fun u =>
      push (pushedP s.p) u fun v => .next ((v.setFlag .i true).setPc (memRead16 v brkVector)) :=
  enterTrap_eq_pushAll (s.pc + 1) s

theorem sub_two_eq (sp : Byte) : sp - 2 = sp - 1 - 1 := by bv_omega

theorem add_two_eq (sp : Byte) : sp + 2 = sp + 1 + 1 := by bv_omega

theorem add_three_eq (sp : Byte) : sp + 3 = sp + 1 + 1 + 1 := by bv_omega

/-- Settles O46: the two pushes one after the other. -/
theorem jsrPushesTheReturnAddress : Obligations.JsrPushesTheReturnAddress := by
  unfold Obligations.JsrPushesTheReturnAddress
  refine fun w => ⟨decodes_three rfl w, fun s => ?_⟩
  rw [ofNat_high_eq_hiByte, ofNat_low_eq_loByte]
  intro hi lo one
  rw [exec_jsr]
  refine ⟨?completes, ?firstOverflows, ?firstInRom, ?secondOverflows, ?secondInRom⟩
  case completes =>
    intro hroom hfirst hsecond
    have hroom₁ := hroom.mono (show 1 ≤ 2 by decide)
    rw [push_of_room hroom₁ hfirst, push_of_room ((roomToPush_pushed hi hroom₁).mpr hroom) hsecond]
    rfl
  case firstOverflows => exact push_of_no_room
  case firstInRom => exact push_of_rom
  case secondOverflows =>
    intro hroom₁ hroom hfirst
    rw [push_of_room hroom₁ hfirst, push_of_no_room ((roomToPush_pushed hi hroom₁).not.mpr hroom)]
  case secondInRom =>
    intro hroom hfirst hsecond
    have hroom₁ := hroom.mono (show 1 ≤ 2 by decide)
    rw [push_of_room hroom₁ hfirst, push_of_rom ((roomToPush_pushed hi hroom₁).mpr hroom) hsecond]
    rfl

/-- Settles O47: the two pulls one after the other. -/
theorem rtsPullsAndAddsOne : Obligations.RtsPullsAndAddsOne := by
  unfold Obligations.RtsPullsAndAddsOne
  refine ⟨decodes_one rfl, fun s => ?_⟩
  rw [exec_rts]
  refine ⟨?completes, fun hroom => pull_of_no_room hroom, ?secondUnderflows⟩
  case completes =>
    intro hroom
    have hroom₁ := hroom.mono (show 1 ≤ 2 by decide)
    rw [pull_of_room hroom₁, pull_of_room ((roomToPull_next hroom₁).mpr hroom), wordOf_eq_ofNat,
      add_two_eq]
    rfl
  case secondUnderflows =>
    intro hroom₁ hroom
    rw [pull_of_room hroom₁, pull_of_no_room ((roomToPull_next hroom₁).not.mpr hroom)]
    rfl

/-- Settles O48: the three pulls one after the other, P loaded after the first. -/
theorem rtiRestoresStatusAndPc : Obligations.RtiRestoresStatusAndPc := by
  unfold Obligations.RtiRestoresStatusAndPc
  refine ⟨decodes_one rfl, fun s => ?_⟩
  rw [exec_rti, add_three_eq, add_two_eq]
  intro p
  refine ⟨?completes, fun hroom => pull_of_no_room hroom, ?secondUnderflows, ?thirdUnderflows⟩
  case completes =>
    intro hroom
    have hroom₁ := hroom.mono (show 1 ≤ 3 by decide)
    have hroom₂ : RoomToPull 2 ((s.setSp (s.sp + 1)).setP p) := (roomToPull_next hroom₁).mpr hroom
    rw [pull_of_room hroom₁, pull_of_room (hroom₂.mono (by decide)),
      pull_of_room ((roomToPull_next (hroom₂.mono (by decide))).mpr hroom₂), wordOf_eq_ofNat]
    rfl
  case secondUnderflows =>
    intro hroom₁ hroom
    have hroom₂ : ¬RoomToPull 1 ((s.setSp (s.sp + 1)).setP p) := (roomToPull_next hroom₁).not.mpr hroom
    rw [pull_of_room hroom₁, pull_of_no_room hroom₂]
    rfl
  case thirdUnderflows =>
    intro hroom hfull
    have hroom₁ := hroom.mono (show 1 ≤ 2 by decide)
    have hroom₂ : RoomToPull 1 ((s.setSp (s.sp + 1)).setP p) := (roomToPull_next hroom₁).mpr hroom
    have hfull₂ : ¬RoomToPull 2 ((s.setSp (s.sp + 1)).setP p) := (roomToPull_next hroom₁).not.mpr hfull
    rw [pull_of_room hroom₁, pull_of_room hroom₂, pull_of_no_room ((roomToPull_next hroom₂).not.mpr hfull₂)]
    rfl

/-- Settles O49: the three pushes one after the other; the vector is read after them. -/
theorem brkEntersTheTrap : Obligations.BrkEntersTheTrap := by
  unfold Obligations.BrkEntersTheTrap
  refine ⟨decodes_one rfl, fun s => ?_⟩
  rw [ofNat_high_eq_hiByte, ofNat_low_eq_loByte, sub_two_eq]
  intro hi lo one two three
  have hone : RoomToPush 1 s → Writable s (stackByte s.sp) → ∀ rest, push hi s rest = rest one :=
    fun hroom hwritable _ => push_of_room hroom hwritable
  have htwo : RoomToPush 2 s → Writable s (stackByte (s.sp - 1)) → ∀ rest, push lo one rest = rest two :=
    fun hroom hwritable _ =>
      push_of_room ((roomToPush_pushed hi (hroom.mono (by decide))).mpr hroom) hwritable
  have htwoRoom : RoomToPush 2 s → (RoomToPush 1 two ↔ RoomToPush 3 s) := by
    intro hroom
    have hroom₁ := hroom.mono (show 1 ≤ 2 by decide)
    rw [roomToPush_pushed lo ((roomToPush_pushed hi hroom₁).mpr hroom), roomToPush_pushed hi hroom₁]
  rw [exec_brk]
  refine ⟨?completes, push_of_no_room, ?secondOverflows, ?thirdOverflows, push_of_rom, ?secondInRom, ?thirdInRom⟩
  case completes =>
    intro hroom hfirst hsecond hthird
    have hroom₂ := hroom.mono (show 2 ≤ 3 by decide)
    rw [hone (hroom₂.mono (by decide)) hfirst, htwo hroom₂ hsecond,
      push_of_room ((htwoRoom hroom₂).mpr hroom) hthird]
    refine ⟨_, rfl, ?frame, ?i, ?others⟩
    case frame =>
      rw [memRead16, wordOf_memRead]
      rfl
    case i => exact (State.flag_setFlag three .i .i true).trans (if_pos rfl)
    case others => exact fun f hf => (State.flag_setFlag three .i f true).trans (if_neg hf)
  case secondOverflows =>
    intro hroom₁ hroom hfirst
    rw [hone hroom₁ hfirst, push_of_no_room ((roomToPush_pushed hi hroom₁).not.mpr hroom)]
  case thirdOverflows =>
    intro hroom₂ hroom hfirst hsecond
    rw [hone (hroom₂.mono (by decide)) hfirst, htwo hroom₂ hsecond,
      push_of_no_room ((htwoRoom hroom₂).not.mpr hroom)]
  case secondInRom =>
    intro hroom₂ hfirst hsecond
    have hroom₁ := hroom₂.mono (show 1 ≤ 2 by decide)
    rw [hone hroom₁ hfirst, push_of_rom ((roomToPush_pushed hi hroom₁).mpr hroom₂) hsecond]
    rfl
  case thirdInRom =>
    intro hroom hfirst hsecond hthird
    have hroom₂ := hroom.mono (show 2 ≤ 3 by decide)
    rw [hone (hroom₂.mono (by decide)) hfirst, htwo hroom₂ hsecond,
      push_of_rom ((htwoRoom hroom₂).mpr hroom) hthird]
    rfl

end Sys2Proof.Claims
end

section
/-! A return pulls what the call or the trap pushed (92_eei_decisions.md D1, under wrap too). -/

namespace Sys2Proof.Claims

open Sys2Proof.Machine

theorem pushed_wellFormed {s : State} (v : Byte) (h : s.WellFormed) : (pushed v s).WellFormed :=
  Memory.write_wf _ _ _ h

theorem pushed_sp (v : Byte) (s : State) : (pushed v s).sp = s.sp - 1 := rfl

theorem pushed_cfg (v : Byte) (s : State) : (pushed v s).cfg = s.cfg := rfl

theorem read_pushed_same {s : State} (v : Byte) (h : s.WellFormed) :
    (pushed v s).mem.read (stackByte s.sp) = v :=
  Memory.read_write_same _ _ _ h

theorem read_pushed_other {s : State} {sp : Byte} (v : Byte) (h : sp ≠ s.sp) :
    (pushed v s).mem.read (stackByte sp) = s.mem.read (stackByte sp) := by
  refine Memory.read_write_other _ _ _ _ fun heq => h ?_
  rw [stackByte_eq_stackAddr, stackByte_eq_stackAddr] at heq
  exact stackAddr_inj _ _ heq

theorem ne_sub_one (sp : Byte) : sp ≠ sp - 1 := by bv_omega

theorem ne_sub_two (sp : Byte) : sp ≠ sp - 1 - 1 := by bv_omega

/-- A push in an instruction that completes was made. -/
theorem push_of_completed {v : Byte} {s t : State} {rest : Rest} (h : push v s rest = .next t)
    (hfault : t.fault = none) : pushFault s = none ∧ rest (pushed v s) = .next t := by
  cases hpush : pushFault s with
  | none => exact ⟨rfl, (push_of_no_fault v rest hpush).symm.trans h⟩
  | some f =>
    rw [push_of_fault v rest hpush] at h
    cases h
    cases hfault

/-- After a push a pull takes the byte pushed: where S had room for the one it has room for the other. -/
theorem pull_after_push {s entry : State} {v : Byte} {k : Byte → Rest} (h : pushFault s = none)
    (hread : entry.mem.read (stackByte s.sp) = v) (hsp : entry.sp = s.sp - 1) (hcfg : entry.cfg = s.cfg) :
    pull entry k = k v (entry.setSp s.sp) := by
  obtain ⟨hover, -⟩ := pushFault_eq_none_iff.mp h
  have hroom : RoomToPull 1 entry := by
    refine (roomToPush_one_iff.mpr hover).imp (fun hwrap => hcfg ▸ hwrap) fun hone => ?_
    rw [hsp]
    bv_omega
  rw [pull_of_room hroom, hsp, BitVec.sub_add_cancel, hread]

/-- Settles O50: RTS pulls the two bytes JSR pushed, in the opposite order. -/
theorem rtsReturnsAfterJsr : Obligations.RtsReturnsAfterJsr := by
  unfold Obligations.RtsReturnsAfterJsr
  intro w s t hwf _ hjsr hfault entry hmem hsp hcfg
  rw [exec_jsr] at hjsr
  obtain ⟨hfirst, h⟩ := push_of_completed hjsr hfault
  obtain ⟨hsecond, h⟩ := push_of_completed h hfault
  cases h
  have hhigh : entry.mem.read (stackByte s.sp) = hiByte (s.pc - 1) := by
    rw [hmem]
    exact (read_pushed_other _ (ne_sub_one s.sp)).trans (read_pushed_same _ hwf)
  have hlow : entry.mem.read (stackByte (s.sp - 1)) = loByte (s.pc - 1) := by
    rw [hmem]
    exact read_pushed_same _ (pushed_wellFormed _ hwf)
  rw [exec_rts, pull_after_push hsecond hlow hsp hcfg, pushed_sp,
    pull_after_push (entry := entry.setSp (s.sp - 1)) hfirst hhigh rfl hcfg, wordOf_hiByte_loByte,
    BitVec.sub_add_cancel]
  rfl

/-- Settles O51: RTI pulls the three bytes BRK pushed, in the opposite order. -/
theorem rtiReturnsAfterBrk : Obligations.RtiReturnsAfterBrk := by
  unfold Obligations.RtiReturnsAfterBrk
  intro s t hwf _ hbrk hfault entry hmem hsp hcfg
  rw [exec_brk] at hbrk
  obtain ⟨hfirst, h⟩ := push_of_completed hbrk hfault
  obtain ⟨hsecond, h⟩ := push_of_completed h hfault
  obtain ⟨hthird, h⟩ := push_of_completed h hfault
  cases h
  have hhigh : entry.mem.read (stackByte s.sp) = hiByte (s.pc + 1) := by
    rw [hmem]
    exact (read_pushed_other _ (ne_sub_two s.sp)).trans
      ((read_pushed_other _ (ne_sub_one s.sp)).trans (read_pushed_same _ hwf))
  have hlow : entry.mem.read (stackByte (s.sp - 1)) = loByte (s.pc + 1) := by
    rw [hmem]
    exact (read_pushed_other _ (ne_sub_one (s.sp - 1))).trans (read_pushed_same _ (pushed_wellFormed _ hwf))
  have hp : entry.mem.read (stackByte (s.sp - 1 - 1)) = pushedP s.p := by
    rw [hmem]
    exact read_pushed_same _ (pushed_wellFormed _ (pushed_wellFormed _ hwf))
  rw [State.setPc_sp, State.setFlag_sp, pushed_sp] at hsp
  rw [State.setPc_cfg, State.setFlag_cfg, pushed_cfg, pushed_cfg, pushed_cfg] at hcfg
  rw [exec_rti, pull_after_push hthird hp hsp hcfg, pushed_sp, pushed_sp]
  let pulled := (entry.setSp (s.sp - 1 - 1)).setP (pushedP s.p)
  rw [pull_after_push (entry := pulled) hsecond hlow rfl hcfg, pushed_sp,
    pull_after_push (entry := pulled.setSp (s.sp - 1)) hfirst hhigh rfl hcfg, wordOf_hiByte_loByte]
  rfl

end Sys2Proof.Claims
end

section
/-! Reset (70_reset_and_hazards.md section 1). -/

namespace Sys2Proof.Machine

theorem hostSteps_neverReset (mem : Memory) (n : Nat) :
    hostSteps n (.neverReset mem) = .error .neverReset := by
  cases n <;> rfl

end Sys2Proof.Machine

namespace Sys2Proof.Claims

open Sys2Proof.Machine

theorem memRead16_resetVector (s : State) : memRead16 s resetVector = wordAt s.mem 0xFFFC#16 0xFFFD#16 :=
  wordOf_memRead s 0xFFFC#16 0xFFFD#16

/-- Settles O57: the three sources of PC; the other fields are those `resetWith` writes. -/
theorem resetLoadsPcSpAndP : Obligations.ResetLoadsPcSpAndP := by
  intro cfg override s
  cases override with
  | some pc => rfl
  | none =>
    cases hpc : cfg.resetPc with
    | some pc => simp [resetWith, resetPcOf, hpc]
    | none => simp [resetWith, resetPcOf, hpc, memRead16_resetVector]

/-- Settles O58: the first reset is `resetWith` on the state the machine is powered on with. -/
theorem firstResetLeavesRegistersArbitrary : Obligations.FirstResetLeavesRegistersArbitrary :=
  ⟨hostSteps_neverReset, fun _ _ _ _ _ _ => ⟨_, rfl, rfl, rfl, rfl, rfl, rfl, rfl, rfl, rfl⟩, rfl, rfl, rfl,
    rfl⟩

end Sys2Proof.Claims
end

section
/-! The end of an observed run (60_exceptions.md R961, 92_eei_decisions.md D23). -/

namespace Sys2Proof.Claims

open Sys2Proof.Machine

section
variable {exitPc : Option Addr} {detector : DeadLoopDetector} {bound : Nat} {past past' : List State}
  {s t u : State} {e : RunEnd}

theorem runEnd_eq_faulted_iff {f : Fault} :
    runEnd exitPc detector bound past s = some (.faulted f) ↔ s.fault = some f := by
  cases hfault : s.fault with
  | some g => simp [runEnd, hfault]
  | none =>
    simp only [runEnd, hfault]
    split_ifs <;> simp

theorem runEnd_eq_exited_iff :
    runEnd exitPc detector bound past s = some .exited ↔ s.fault = none ∧ exitPc = some s.pc := by
  cases hfault : s.fault with
  | some g => simp [runEnd, hfault]
  | none =>
    simp only [runEnd, hfault]
    split_ifs with hexit <;> simp [hexit]

theorem runEnd_eq_deadLoop_iff :
    runEnd exitPc detector bound past s = some .deadLoop ↔
      s.fault = none ∧ exitPc ≠ some s.pc ∧ detector bound past s = true := by
  cases hfault : s.fault with
  | some g => simp [runEnd, hfault]
  | none =>
    simp only [runEnd, hfault]
    split_ifs <;> simp [*]

theorem RunsOn.length_le (h : RunsOn exitPc detector bound past s past' t) : past.length ≤ past'.length := by
  induction h with
  | refl => exact le_rfl
  | step _ _ _ ih => exact (Nat.le_succ _).trans ih

theorem runsOn_iff_of_end (h : runEnd exitPc detector bound past s = some e) :
    RunsOn exitPc detector bound past s past' t ↔ past' = past ∧ t = s := by
  constructor
  · intro hrun
    cases hrun with
    | refl => exact ⟨rfl, rfl⟩
    | step hnot => simp [h] at hnot
  · rintro ⟨rfl, rfl⟩
    exact .refl _ _

/-- A run that ends, from a state that does not end it, goes through the next state. -/
theorem runsOn_iff_of_step (h : runEnd exitPc detector bound past s = none) (hstep : step s = .next u)
    (hend : runEnd exitPc detector bound past' t = some e) :
    RunsOn exitPc detector bound past s past' t ↔ RunsOn exitPc detector bound (s :: past) u past' t := by
  constructor
  · intro hrun
    cases hrun with
    | refl => simp [h] at hend
    | step _ hstep' hrun =>
      cases hstep.symm.trans hstep'
      exact hrun
  · exact .step h hstep

/-- What O60 says an observation of `n` steps finds: the run reaches a state that ends it. -/
def EndsWithin (exitPc : Option Addr) (detector : DeadLoopDetector) (bound n : Nat) (past : List State)
    (s : State) (e : RunEnd) (t : State) : Prop :=
  ∃ past' : List State, past'.length ≤ past.length + n ∧ RunsOn exitPc detector bound past s past' t ∧
    runEnd exitPc detector bound past' t = some e

theorem endsWithin_iff_of_end {e₀ : RunEnd} (n : Nat) (h : runEnd exitPc detector bound past s = some e₀) :
    EndsWithin exitPc detector bound n past s e t ↔ e₀ = e ∧ s = t := by
  constructor
  · rintro ⟨past', -, hrun, he⟩
    obtain ⟨rfl, rfl⟩ := (runsOn_iff_of_end h).mp hrun
    exact ⟨Option.some.inj (h.symm.trans he), rfl⟩
  · rintro ⟨rfl, rfl⟩
    exact ⟨past, Nat.le_add_right _ _, .refl _ _, h⟩

theorem not_endsWithin_zero (h : runEnd exitPc detector bound past s = none) :
    ¬EndsWithin exitPc detector bound 0 past s e t := by
  rintro ⟨past', hlength, hrun, he⟩
  obtain ⟨u, hstep⟩ := step_total (running_of_not_end h)
  exact absurd (((runsOn_iff_of_step h hstep he).mp hrun).length_le.trans hlength) (Nat.not_succ_le_self _)

theorem endsWithin_succ_iff (n : Nat) (h : runEnd exitPc detector bound past s = none)
    (hstep : step s = .next u) :
    EndsWithin exitPc detector bound (n + 1) past s e t ↔
      EndsWithin exitPc detector bound n (s :: past) u e t := by
  refine exists_congr fun past' => and_congr ?_ (and_congr_left (runsOn_iff_of_step h hstep))
  rw [List.length_cons, Nat.add_right_comm, Nat.add_assoc]

theorem observe_eq_some_iff (n : Nat) :
    observe exitPc detector bound n past s = some (e, t) ↔
      EndsWithin exitPc detector bound n past s e t := by
  induction n generalizing past s with
  | zero =>
    cases hend : runEnd exitPc detector bound past s with
    | some e₀ => simp [observe_of_end 0 hend, endsWithin_iff_of_end 0 hend]
    | none => simp [observe_zero hend, not_endsWithin_zero hend]
  | succ n ih =>
    cases hend : runEnd exitPc detector bound past s with
    | some e₀ => simp [observe_of_end (n + 1) hend, endsWithin_iff_of_end (n + 1) hend]
    | none =>
      obtain ⟨u, hstep⟩ := step_total (running_of_not_end hend)
      rw [observe_next n hend hstep, endsWithin_succ_iff n hend hstep, ih]

theorem RunEnd.successful_iff : e.successful = true ↔ e = .exited ∨ e = .deadLoop := by
  cases e <;> simp [RunEnd.successful]

end

/-! A JMP to its own address steps to the same state, so a run from it passes copies of it. -/

theorem runEnd_selfLoopDetector {s : State} (hrunning : s.fault = none) (bound k : Nat) :
    runEnd none selfLoopDetector bound (List.replicate k s) s =
      if bound ≤ k then some .deadLoop else none := by
  simp [runEnd, hrunning, selfLoopDetector, List.take_replicate]

section
variable {s : State} (hrunning : s.fault = none) (hstep : step s = .next s)
include hrunning hstep

theorem observe_fixed_without_ends (n bound : Nat) (past : List State) :
    observe none (fun _ _ _ => false) bound n past s = none := by
  have hend (past : List State) : runEnd none (fun _ _ _ => false) bound past s = none := by
    simp [runEnd, hrunning]
  induction n generalizing past with
  | zero => exact observe_zero (hend past)
  | succ n ih => exact (observe_next n (hend past) hstep).trans (ih (s :: past))

/-- After `k` iterations the detector fires within `n` more exactly when that reaches the bound. -/
theorem observe_selfLoopDetector (bound n k : Nat) :
    observe none selfLoopDetector bound n (List.replicate k s) s =
      if bound ≤ k + n then some (.deadLoop, s) else none := by
  induction n generalizing k with
  | zero =>
    have hend := runEnd_selfLoopDetector hrunning bound k
    by_cases hfires : bound ≤ k
    · rw [if_pos hfires] at hend
      rw [observe_of_end 0 hend, Nat.add_zero, if_pos hfires]
    · rw [if_neg hfires] at hend
      rw [observe_zero hend, Nat.add_zero, if_neg hfires]
  | succ n ih =>
    have hend := runEnd_selfLoopDetector hrunning bound k
    by_cases hfires : bound ≤ k
    · rw [if_pos hfires] at hend
      rw [observe_of_end (n + 1) hend, if_pos (hfires.trans (Nat.le_add_right _ _))]
    · rw [if_neg hfires] at hend
      rw [observe_next n hend hstep, ← List.replicate_succ, ih, Nat.add_right_comm, Nat.add_assoc]

end

/-- Settles O60: the observation follows `EndsWithin` step by step, and a self-jump repeats its state. -/
theorem runsEndAtTheFirstOfTheThreeConditions : Obligations.RunsEndAtTheFirstOfTheThreeConditions := by
  refine ⟨fun _ _ _ _ _ => ⟨fun _ => runEnd_eq_faulted_iff, runEnd_eq_exited_iff, runEnd_eq_deadLoop_iff,
    fun n _ _ => observe_eq_some_iff n⟩, fun _ => RunEnd.successful_iff, ?selfJump⟩
  case selfJump =>
    intro s hrunning hdecode
    have hstep : step s = .next s := stepRunsTheDecodedInstruction s _ _ hrunning hdecode
    refine ⟨hstep, fun n bound => observe_fixed_without_ends hrunning hstep n bound [], fun bound => ⟨?_, ?_⟩⟩
    · simpa using observe_selfLoopDetector hrunning hstep bound bound 0
    · intro n hn
      simpa [hn.not_ge] using observe_selfLoopDetector hrunning hstep bound n 0

end Sys2Proof.Claims
end
